-- ==== Sys2Proof/Word.lean ====
section
/-! DEFINITION. The widths of the rship CORE block's values (00_scope.md R6, R7). -/

namespace Sys2Proof

/-- 8 bits: a general register, a timer, a memory byte (R7). -/
abbrev Byte := BitVec 8

/-- 16 bits: `pc`, `I`, `SP`, a stack slot, an instruction word (R7). -/
abbrev Word := BitVec 16

/-- The 12-bit immediate `NNN` (30_encoding.md R70). -/
abbrev Addr12 := BitVec 12

/-- The 4-bit row count `N` (30_encoding.md R70). -/
abbrev Nibble := BitVec 4

/-- A general register's index, `X` or `Y`: every index 0..15 is legal (10_state.md R20). -/
abbrev Reg := Fin 16

/-- `VF`, register 15, the flag register (10_state.md R22). -/
abbrev VF : Reg := 15

end Sys2Proof
end

