-- ==== Sys2Proof/Config.lean ====
section
/-! DEFINITION. What an implementation of the block fixes (00_scope.md R5, R6) and the one free value, the
host's random byte (44_alu.md R146). -/

namespace Sys2Proof

/-- `OPSET` (00_scope.md R5): which of the dispatch rows are decoded. -/
inductive Opset where
  | snapshot
  | canonical
  deriving DecidableEq, Repr

/-- `KEYWAIT` (46_timers_keypad.md R161): how FX0A waits. -/
inductive Keywait where
  | press
  | pressRelease
  deriving DecidableEq, Repr

/-- `FONT` (10_state.md R29): 16 glyphs of 5 bytes, `FONT_LEN = 80`. -/
abbrev Font := Vector (Vector Byte 5) 16

/-- The parameters of R6 that an implementation chooses.
DESIGN CHOICE (log 1): a machine's parameters are held in its State, because `exec` has no other argument
for them; no operation of the machine changes them. -/
structure Params where
  opset : Opset
  keywait : Keywait
  ldstIncrementsI : Bool
  font : Font
  deriving DecidableEq, Repr

namespace Config

/-- `MEM_SIZE` in bytes (R6). -/
abbrev memSize : Nat := 4096

/-- `ENTRY` (R6): where a program starts. -/
abbrev entry : Nat := 512

/-- `STACK_DEPTH` (R6). -/
abbrev stackDepth : Nat := 16

/-- `NKEYS` (R6). -/
abbrev nKeys : Nat := 16

/-- `FB_W` (R6). -/
abbrev fbW : Nat := 64

/-- `FB_H` (R6). -/
abbrev fbH : Nat := 32

/-- `FONT_BASE` (R6). -/
abbrev fontBase : Nat := 0

/-- `FONT_LEN` (R6). -/
abbrev fontLen : Nat := 80

/-- The bytes of one glyph, the stride of FX29 (45_index_memory.md R152). -/
abbrev glyphLen : Nat := 5

/-- The default glyph table, row by row as 10_state.md R29 lists it.
PRESUMED (log 11): the spec marks the table as general knowledge. -/
def defaultFont : Font :=
  #v[#v[0xF0, 0x90, 0x90, 0x90, 0xF0],
     #v[0x20, 0x60, 0x20, 0x20, 0x70],
     #v[0xF0, 0x10, 0xF0, 0x80, 0xF0],
     #v[0xF0, 0x10, 0xF0, 0x10, 0xF0],
     #v[0x90, 0x90, 0xF0, 0x10, 0x10],
     #v[0xF0, 0x80, 0xF0, 0x10, 0xF0],
     #v[0xF0, 0x80, 0xF0, 0x90, 0xF0],
     #v[0xF0, 0x10, 0x20, 0x40, 0x40],
     #v[0xF0, 0x90, 0xF0, 0x90, 0xF0],
     #v[0xF0, 0x90, 0xF0, 0x10, 0xF0],
     #v[0xF0, 0x90, 0xF0, 0x90, 0x90],
     #v[0xE0, 0x90, 0xE0, 0x90, 0xE0],
     #v[0xF0, 0x80, 0x80, 0x80, 0xF0],
     #v[0xE0, 0x90, 0x90, 0x90, 0xE0],
     #v[0xF0, 0x80, 0xF0, 0x80, 0xF0],
     #v[0xF0, 0x80, 0xF0, 0x80, 0x80]]

/-- The defaults the spec uses (R6): Canonical, Press, `I` unchanged by FX55 and FX65, the table of R29. -/
def defaultParams : Params where
  opset := .canonical
  keywait := .press
  ldstIncrementsI := false
  font := defaultFont

/-- The host's byte source where the host has not said which bytes it supplies: the n-th byte CXNN takes
(44_alu.md R146, "a claim about a program must hold for every byte"). A free value (log 2): nothing
constrains it. -/
opaque randomByte : Nat → Byte

end Config

end Sys2Proof
end

