-- ==== Sys2Proof/WellFormed.lean ====
section
/-! DEFINITION. Which instructions an implementation has: the operands are of their widths by their types,
so the one check left is `OPSET` (00_scope.md R5, 30_encoding.md R75 rows 26 to 35). -/

namespace Sys2Proof

/-- The ten instructions that exist only when `OPSET = Canonical` (R5). -/
def Instr.canonicalOnly : Instr → Bool
  | .sknp _ | .ldVxDt _ | .ldVxK _ | .ldDtVx _ | .ldStVx _
  | .addIVx _ | .ldFVx _ | .ldBVx _ | .ldMemVx _ | .ldVxMem _ => true
  | .cls | .ret | .nop | .jp _ | .call _ | .seImm _ _ | .sneImm _ _ | .seReg _ _
  | .ldImm _ _ | .addImm _ _ | .ldReg _ _ | .or _ _ | .and _ _ | .xor _ _
  | .addReg _ _ | .sub _ _ | .shr _ _ | .subn _ _ | .shl _ _ | .sneReg _ _
  | .ldI _ | .jpV0 _ | .rnd _ _ | .drw _ _ _ | .skp _ => false

/-- `i` is an instruction of the set `o`. -/
def Instr.wellFormed (o : Opset) (i : Instr) : Bool :=
  o = .canonical || !i.canonicalOnly

end Sys2Proof
end

