-- ==== Sys2Proof/Decode.lean ====
section
/-! DEFINITION. The dispatch table of 30_encoding.md R75, decoding by it (R76), and the encoder
written from the same formats (R71). -/

namespace Sys2Proof

/-! ### Fields (R70) -/

/-- `X`, bits 11:8. -/
def fieldX (w : Word) : Reg := (w.extractLsb' 8 4).toFin

/-- `Y`, bits 7:4. -/
def fieldY (w : Word) : Reg := (w.extractLsb' 4 4).toFin

/-- `N`, bits 3:0. -/
def fieldN (w : Word) : Nibble := w.extractLsb' 0 4

/-- `NN`, bits 7:0. -/
def fieldNN (w : Word) : Byte := w.extractLsb' 0 8

/-- `NNN`, bits 11:0. -/
def fieldNNN (w : Word) : Addr12 := w.extractLsb' 0 12

/-! ### The dispatch table (R75) -/

/-- One row of R75: a word `w` selects it when `w & mask = pattern`; rows with `canonicalOnly` are decoded only
when `OPSET = Canonical`. -/
structure Row where
  pattern : Word
  mask : Word
  canonicalOnly : Bool
  build : Word → Instr

/-- Rows 1 to 10 of R75. -/
def rows1to10 : List Row :=
  [⟨0x00E0#16, 0xFFFF#16, false, fun _ => .cls⟩,
   ⟨0x00EE#16, 0xFFFF#16, false, fun _ => .ret⟩,
   ⟨0x0000#16, 0xFFFF#16, false, fun _ => .nop⟩,
   ⟨0x1000#16, 0xF000#16, false, fun w => .jp (fieldNNN w)⟩,
   ⟨0x2000#16, 0xF000#16, false, fun w => .call (fieldNNN w)⟩,
   ⟨0x3000#16, 0xF000#16, false, fun w => .seImm (fieldX w) (fieldNN w)⟩,
   ⟨0x4000#16, 0xF000#16, false, fun w => .sneImm (fieldX w) (fieldNN w)⟩,
   ⟨0x5000#16, 0xF00F#16, false, fun w => .seReg (fieldX w) (fieldY w)⟩,
   ⟨0x6000#16, 0xF000#16, false, fun w => .ldImm (fieldX w) (fieldNN w)⟩,
   ⟨0x7000#16, 0xF000#16, false, fun w => .addImm (fieldX w) (fieldNN w)⟩]

/-- Rows 11 to 20 of R75. -/
def rows11to20 : List Row :=
  [⟨0x8000#16, 0xF00F#16, false, fun w => .ldReg (fieldX w) (fieldY w)⟩,
   ⟨0x8001#16, 0xF00F#16, false, fun w => .or (fieldX w) (fieldY w)⟩,
   ⟨0x8002#16, 0xF00F#16, false, fun w => .and (fieldX w) (fieldY w)⟩,
   ⟨0x8003#16, 0xF00F#16, false, fun w => .xor (fieldX w) (fieldY w)⟩,
   ⟨0x8004#16, 0xF00F#16, false, fun w => .addReg (fieldX w) (fieldY w)⟩,
   ⟨0x8005#16, 0xF00F#16, false, fun w => .sub (fieldX w) (fieldY w)⟩,
   ⟨0x8006#16, 0xF00F#16, false, fun w => .shr (fieldX w) (fieldY w)⟩,
   ⟨0x8007#16, 0xF00F#16, false, fun w => .subn (fieldX w) (fieldY w)⟩,
   ⟨0x800E#16, 0xF00F#16, false, fun w => .shl (fieldX w) (fieldY w)⟩,
   ⟨0x9000#16, 0xF00F#16, false, fun w => .sneReg (fieldX w) (fieldY w)⟩]

/-- Rows 21 to 25 of R75, the last of the source's own table. -/
def rows21to25 : List Row :=
  [⟨0xA000#16, 0xF000#16, false, fun w => .ldI (fieldNNN w)⟩,
   ⟨0xB000#16, 0xF000#16, false, fun w => .jpV0 (fieldNNN w)⟩,
   ⟨0xC000#16, 0xF000#16, false, fun w => .rnd (fieldX w) (fieldNN w)⟩,
   ⟨0xD000#16, 0xF000#16, false, fun w => .drw (fieldX w) (fieldY w) (fieldN w)⟩,
   ⟨0xE09E#16, 0xF0FF#16, false, fun w => .skp (fieldX w)⟩]

/-- Rows 26 to 35 of R75, decoded only when `OPSET = Canonical` (00_scope.md R5). -/
def rows26to35 : List Row :=
  [⟨0xE0A1#16, 0xF0FF#16, true, fun w => .sknp (fieldX w)⟩,
   ⟨0xF007#16, 0xF0FF#16, true, fun w => .ldVxDt (fieldX w)⟩,
   ⟨0xF00A#16, 0xF0FF#16, true, fun w => .ldVxK (fieldX w)⟩,
   ⟨0xF015#16, 0xF0FF#16, true, fun w => .ldDtVx (fieldX w)⟩,
   ⟨0xF018#16, 0xF0FF#16, true, fun w => .ldStVx (fieldX w)⟩,
   ⟨0xF01E#16, 0xF0FF#16, true, fun w => .addIVx (fieldX w)⟩,
   ⟨0xF029#16, 0xF0FF#16, true, fun w => .ldFVx (fieldX w)⟩,
   ⟨0xF033#16, 0xF0FF#16, true, fun w => .ldBVx (fieldX w)⟩,
   ⟨0xF055#16, 0xF0FF#16, true, fun w => .ldMemVx (fieldX w)⟩,
   ⟨0xF065#16, 0xF0FF#16, true, fun w => .ldVxMem (fieldX w)⟩]

/-- The 35 rows of R75, in its order. -/
def dispatchTable : List Row := rows1to10 ++ rows11to20 ++ rows21to25 ++ rows26to35

/-- The row is decoded in the set `o` and the word selects it (R75, R76). -/
def Row.selects (o : Opset) (w : Word) (r : Row) : Bool :=
  (o = .canonical || !r.canonicalOnly) && (w &&& r.mask) = r.pattern

/-- Dispatch (R76): the first row the word selects; none is an unknown opcode (R77). -/
def decode (o : Opset) (w : Word) : Option Instr :=
  (dispatchTable.find? (Row.selects o w)).map fun r => r.build w

/-- Two bytes as an instruction word, the first the more significant (20_memory.md R53). -/
def wordOfBytes (hi lo : Byte) : Word := hi ++ lo

/-- The byte an instruction word has at its lower address (R53). -/
def highByte (w : Word) : Byte := w.extractLsb' 8 8

/-- The byte an instruction word has at its higher address (R53). -/
def lowByte (w : Word) : Byte := w.extractLsb' 0 8

/-- Decoding from a list of bytes: the instruction and the rest of the list. -/
def decodeBytes (o : Opset) : List Byte → Option (Instr × List Byte)
  | hi :: lo :: rest => (decode o (wordOfBytes hi lo)).map fun i => (i, rest)
  | _ => none

/-- The low `nbits` bits of `w` as an instruction word, the bits above them 0. -/
def tableWord (nbits w : Nat) : Word := BitVec.ofNat 16 (w % 2 ^ nbits)

/-- What the decoder reads from an instruction whose bits are `w`, numbered as spec/opcode_table.json numbers
them, under the spec's default `OPSET = Canonical` (R5). -/
def decodeTableWord (nbits w : Nat) : Option Instr :=
  let word := tableWord nbits w
  (decodeBytes .canonical [highByte word, lowByte word]).map fun p => p.1

/-! ### The encoder (R71) -/

/-- A register index as a 4-bit field. -/
def regField (r : Reg) : Nibble := BitVec.ofFin r

/-- Formats FIX and NNN of R71: a fixed nibble and 12 bits. -/
def formNNN (a : Nibble) (nnn : Addr12) : Word := a ++ nnn

/-- Formats XNN and XK of R71: a fixed nibble, `X`, and 8 bits. -/
def formXNN (a : Nibble) (x : Reg) (nn : Byte) : Word := a ++ regField x ++ nn

/-- Formats XY0 and XYN of R71: a fixed nibble, `X`, `Y`, and 4 bits. -/
def formXYN (a : Nibble) (x y : Reg) (n : Nibble) : Word := a ++ regField x ++ regField y ++ n

/-- The word of an instruction, from the patterns of R75. -/
def encode : Instr → Word
  | .cls => formNNN 0x0#4 0x0E0#12
  | .ret => formNNN 0x0#4 0x0EE#12
  | .nop => formNNN 0x0#4 0x000#12
  | .jp nnn => formNNN 0x1#4 nnn
  | .call nnn => formNNN 0x2#4 nnn
  | .seImm x nn => formXNN 0x3#4 x nn
  | .sneImm x nn => formXNN 0x4#4 x nn
  | .seReg x y => formXYN 0x5#4 x y 0x0#4
  | .ldImm x nn => formXNN 0x6#4 x nn
  | .addImm x nn => formXNN 0x7#4 x nn
  | .ldReg x y => formXYN 0x8#4 x y 0x0#4
  | .or x y => formXYN 0x8#4 x y 0x1#4
  | .and x y => formXYN 0x8#4 x y 0x2#4
  | .xor x y => formXYN 0x8#4 x y 0x3#4
  | .addReg x y => formXYN 0x8#4 x y 0x4#4
  | .sub x y => formXYN 0x8#4 x y 0x5#4
  | .shr x y => formXYN 0x8#4 x y 0x6#4
  | .subn x y => formXYN 0x8#4 x y 0x7#4
  | .shl x y => formXYN 0x8#4 x y 0xE#4
  | .sneReg x y => formXYN 0x9#4 x y 0x0#4
  | .ldI nnn => formNNN 0xA#4 nnn
  | .jpV0 nnn => formNNN 0xB#4 nnn
  | .rnd x nn => formXNN 0xC#4 x nn
  | .drw x y n => formXYN 0xD#4 x y n
  | .skp x => formXNN 0xE#4 x 0x9E#8
  | .sknp x => formXNN 0xE#4 x 0xA1#8
  | .ldVxDt x => formXNN 0xF#4 x 0x07#8
  | .ldVxK x => formXNN 0xF#4 x 0x0A#8
  | .ldDtVx x => formXNN 0xF#4 x 0x15#8
  | .ldStVx x => formXNN 0xF#4 x 0x18#8
  | .addIVx x => formXNN 0xF#4 x 0x1E#8
  | .ldFVx x => formXNN 0xF#4 x 0x29#8
  | .ldBVx x => formXNN 0xF#4 x 0x33#8
  | .ldMemVx x => formXNN 0xF#4 x 0x55#8
  | .ldVxMem x => formXNN 0xF#4 x 0x65#8

end Sys2Proof
end

