-- ==== Sys2Proof/Machine/State.lean ====
section
/-! DEFINITION. The state of the block (10_state.md), its fault records (60_exceptions.md R170, R171), and the state
after reset (10_state.md R38, 70_reset_and_hazards.md R200). -/

namespace Sys2Proof.Machine

/-- The six kinds of R170, in the order of their codes 1 to 6. -/
inductive FaultKind where
  | unknownOpcode
  | memoryOutOfBounds
  | stackOverflow
  | stackUnderflow
  | keypadIndexOutOfRange
  | fontDigitOutOfRange
  deriving DecidableEq, Repr

/-- The cause code of R170. -/
def FaultKind.code : FaultKind → Nat
  | .unknownOpcode => 1
  | .memoryOutOfBounds => 2
  | .stackOverflow => 3
  | .stackUnderflow => 4
  | .keypadIndexOutOfRange => 5
  | .fontDigitOutOfRange => 6

/-- A fault record (R171). `pc` is the address the faulting instruction was fetched from, `word` is none for a
fetch fault, and `detail` is the offending address, key index or digit where the kind has one; an offending
address may exceed 16 bits (20_memory.md R52: addresses are unbounded). -/
structure FaultRecord where
  kind : FaultKind
  pc : Word
  word : Option Word
  detail : Option Nat
  deriving DecidableEq, Repr

/-- What stops the MODEL (the machine's own faults are states with `fault` latched, log 3). -/
inductive Fault where
  /-- Raised by CALL and RET in a state whose `SP` is above 16, a value 10_state.md R26 says `SP` never takes:
  there is no stack slot to use. Safe: no run reaches such a state (log 4). -/
  | stackPointerIllegal
  deriving DecidableEq, Repr

/-- Why the model gives an instruction no meaning. -/
inductive Refusal where
  /-- Raised by an arm of `exec` whose instruction has no meaning yet; no arm does. Safe. -/
  | notModelled (mnemonic : String)
  deriving DecidableEq, Repr

/-- The state of the block. The fields down to `kwait` are the spec's (10_state.md R20 to R36); `params` holds the
implementation's parameters (00_scope.md R6, log 1); `randomIn` and `draws` are the model's own, for the random
byte a step may take from the host (44_alu.md R146, log 2). -/
structure State where
  /-- `V[0]`..`V[15]` (R20). -/
  v : Vector Byte 16
  /-- `pc` (R23). -/
  pc : Word
  /-- `I` (R25). -/
  i : Word
  /-- `SP` (R26). -/
  sp : Word
  /-- `STACK[0]`..`STACK[15]` (R27). -/
  stack : Vector Word 16
  /-- Memory (R28): the bytes that differ from the reset image, at rising addresses (log 5). -/
  mem : List Host.Cell
  /-- The framebuffer, `fb[y][x]` (R30). -/
  fb : Vector (Vector Bool 64) 32
  /-- `KEY[0]`..`KEY[15]`, true = down (R31). -/
  key : Vector Bool 16
  /-- `DT` (R32). -/
  dt : Byte
  /-- `ST` (R32). -/
  st : Byte
  /-- `FAULT` (R35). -/
  fault : Option FaultRecord
  /-- `KWAIT` (R36). -/
  kwait : Option Reg
  /-- The parameters of 00_scope.md R6. -/
  params : Params
  /-- The bytes the host has supplied and CXNN has not yet taken, first one first. -/
  randomIn : List Byte
  /-- How many bytes CXNN has taken. -/
  draws : Nat
  deriving DecidableEq, Repr

/-- `construct()` (60_exceptions.md R190, R192; 10_state.md R38) for an implementation with parameters `p`; `n` says
where in the host's byte source the new machine begins (log 2). -/
def State.construct (p : Params) (n : Nat) : State where
  v := Vector.replicate 16 0
  pc := BitVec.ofNat 16 Config.entry
  i := 0
  sp := 0
  stack := Vector.replicate 16 0
  mem := []
  fb := Vector.replicate 32 (Vector.replicate 64 false)
  key := Vector.replicate 16 false
  dt := 0
  st := 0
  fault := none
  kwait := none
  params := p
  randomIn := []
  draws := n

/-- The machine right after reset (R38), with the spec's default parameters (00_scope.md R6). -/
def State.reset : State := State.construct Config.defaultParams 0

end Sys2Proof.Machine
end

