-- ==== Sys2Proof/Machine/Ops.lean ====
section
/-! DEFINITION. The operations the instructions share: memory, registers, the program counter, the random byte, and taking
a fault (00_scope.md R8; 20_memory.md; 60_exceptions.md R171 to R175). -/

namespace Sys2Proof.Machine

/-- What a step or a meaning answers. -/
abbrev Result : Type := Host.Outcome State Fault Refusal

/-! ### Memory (20_memory.md R50 to R60) -/

/-- Memory as the bytes that differ from the reset image (log 5). -/
abbrev Memory : Type := List Host.Cell

/-- What an address that is not listed reads as: its reset content, `FONT` at `FONT_BASE`, else 0 (10_state.md R38).
An address past the memory has no byte; the value 0 given there is never used, since every access is
checked first (log 14). -/
def resetByte (font : Font) (a : Nat) : Byte :=
  if h : Config.fontBase ≤ a ∧ a - Config.fontBase < Config.fontLen then
    have h80 : a - Config.fontBase < 80 := h.2
    font[(a - Config.fontBase) / 5][(a - Config.fontBase) % 5]
  else 0

/-- The byte at an address: the last one written there, or the reset content (R58, R61). -/
def Memory.read (font : Font) : Memory → Nat → Byte
  | [], a => resetByte font a
  | c :: m, a => if c.1 = a then c.2 else Memory.read font m a

/-- Writing one byte, keeping the canonical form: addresses rise, and no cell holds its reset content. -/
def Memory.write (font : Font) : Memory → Nat → Byte → Memory
  | [], a, b => if b = resetByte font a then [] else [(a, b)]
  | c :: m, a, b =>
    if a < c.1 then (if b = resetByte font a then c :: m else (a, b) :: c :: m)
    else if a = c.1 then (if b = resetByte font a then m else (a, b) :: m)
    else c :: Memory.write font m a b

/-- The canonical form: addresses strictly rise and lie below `MEM_SIZE`, and no entry equals the reset content. -/
def Memory.wf (font : Font) (m : Memory) : Bool :=
  decide (m.Pairwise fun c d => c.1 < d.1)
    && m.all fun c => decide (c.1 < Config.memSize) && decide (c.2 ≠ resetByte font c.1)

/-- Writing a list of bytes at rising addresses. -/
def Memory.writeBytes (font : Font) : Memory → Nat → List Byte → Memory
  | m, _, [] => m
  | m, a, b :: bs => Memory.writeBytes font (Memory.write font m a b) (a + 1) bs

/-- `MemRead(a, 1)` at an address already checked (00_scope.md R8). -/
def State.readByte (s : State) (a : Nat) : Byte := Memory.read s.params.font s.mem a

/-- `MemWrite(a, 1, b)` for the bytes `bs` at `a`, `a + 1`, …, at addresses already checked (00_scope.md R8). -/
def State.writeBytes (s : State) (a : Nat) (bs : List Byte) : State :=
  { s with mem := Memory.writeBytes s.params.font s.mem a bs }

/-- The access list `base`..`base + len - 1`, as unbounded naturals (R52). -/
def accessList (base len : Nat) : List Nat := (List.range len).map fun k => base + k

/-- The lowest address of the access list at or above `MEM_SIZE` (R52). -/
def lowestBad (base len : Nat) : Option Nat :=
  (accessList base len).find? fun a => decide (Config.memSize ≤ a)

/-- `MemRead(pc, 2)`, big-endian, at an address already checked (R53, R57). -/
def State.fetchWord (s : State) : Word :=
  wordOfBytes (s.readByte s.pc.toNat) (s.readByte (s.pc.toNat + 1))

/-! ### Registers (10_state.md R20 to R27) -/

/-- `V[r]`. -/
def State.getV (s : State) (r : Reg) : Byte := s.v[r]

/-- `V[r] <- b`. -/
def State.setV (s : State) (r : Reg) (b : Byte) : State := { s with v := s.v.set r b r.isLt }

/-- `I <- w`. -/
def State.setI (s : State) (w : Word) : State := { s with i := w }

/-- `pc <- w`. -/
def State.setPc (s : State) (w : Word) : State := { s with pc := w }

/-- `DT <- b`. -/
def State.setDt (s : State) (b : Byte) : State := { s with dt := b }

/-- `ST <- b`. -/
def State.setSt (s : State) (b : Byte) : State := { s with st := b }

/-- `KWAIT <- k`. -/
def State.setKwait (s : State) (k : Option Reg) : State := { s with kwait := k }

/-- The whole framebuffer replaced. -/
def State.setFb (s : State) (fb : Vector (Vector Bool 64) 32) : State := { s with fb := fb }

/-- The fetch's `pc <- p + 2` (20_memory.md R57): what every execute phase begins with (00_scope.md R9). -/
def State.advance (s : State) : State := s.setPc (s.pc + 2)

/-- `skip`, on the state after the fetch (00_scope.md R8). -/
def State.skip (s : State) : State := s.setPc (s.pc + 2)

/-- `if c: skip`. -/
def State.skipIf (s : State) (c : Bool) : State := if c then s.skip else s

/-- Push: "writes at pointer then increments" (10_state.md R27); `SP` is below 16. -/
def State.push (s : State) (w : Word) (h : s.sp.toNat < 16) : State :=
  { s with stack := s.stack.set s.sp.toNat w h, sp := s.sp + 1 }

/-- Pop: "decrements then reads" into `pc` (10_state.md R27, 42_control_flow.md R111); the slot keeps its value. -/
def State.popPc (s : State) (h : (s.sp - 1).toNat < 16) : State :=
  { s with sp := s.sp - 1, pc := s.stack[(s.sp - 1).toNat] }

/-! ### The random byte (44_alu.md R146, log 2) -/

/-- The byte the next CXNN takes: the first one the host supplied, or a free value. -/
def State.randomByte (s : State) : Byte :=
  match s.randomIn with
  | b :: _ => b
  | [] => Config.randomByte s.draws

/-- The source after one byte is taken. -/
def State.dropRandom (s : State) : State :=
  { s with randomIn := s.randomIn.tail, draws := s.draws + 1 }

/-! ### Taking a fault, and what clears it -/

/-- `FAULT <- (kind, pc, word, detail)` and nothing else (60_exceptions.md R171, R174): the state is the one before the step, so
`pc` is the address of the faulting instruction. -/
def State.latch (s : State) (kind : FaultKind) (word : Option Word) (detail : Option Nat) : State :=
  { s with fault := some { kind := kind, pc := s.pc, word := word, detail := detail } }

/-- `raise Kind(p, word, detail)` by the instruction `i`, from the state before the step (R171, R174). There is no
vector, handler or mode change (R183): the step ends with the record latched. -/
def raiseFault (kind : FaultKind) (i : Instr) (detail : Option Nat) (s : State) : Result :=
  .next (s.latch kind (some (encode i)) detail)

/-- `reset(core)` in place (60_exceptions.md R192, 70_reset_and_hazards.md R200), the only thing that clears a latched
fault (R175; there is no return from a fault, R184). The parameters are the machine's, and the host's byte source
is not the block's, so both stay (log 2). -/
def State.resetInPlace (s : State) : State :=
  { State.construct s.params s.draws with randomIn := s.randomIn }

end Sys2Proof.Machine
end

