-- ==== Sys2Proof/Machine/Flags.lean ====
section
/-! DEFINITION. The flag computations: each from the operands read at the start of the instruction
(44_alu.md R136 to R141, 41_display.md R101), and the writing of a result and then the flag (10_state.md R22). -/

namespace Sys2Proof.Machine

/-- A flag as the value of `VF`. -/
def flagByte (b : Bool) : Byte := if b then 1 else 0

/-- The carry of 8XY4: the unsigned sum exceeds 255 (R136). -/
def addCarry (a b : Byte) : Bool := decide (255 < a.toNat + b.toNat)

/-- The "no borrow" flag of `minuend - subtrahend`, in the inverted convention of 8XY5 and 8XY7 (R137, R139). -/
def noBorrow (minuend subtrahend : Byte) : Bool := decide (subtrahend.toNat ≤ minuend.toNat)

/-- The bit 8XY6 shifts out (R138). -/
def shrOut (a : Byte) : Bool := a.getLsbD 0

/-- The bit 8XYE shifts out (R140). -/
def shlOut (a : Byte) : Bool := a.getLsbD 7

/-- `VF <- flag`. -/
def State.setFlag (s : State) (flag : Bool) : State := s.setV VF (flagByte flag)

/-- `V[X] <- result` and then `VF <- flag`: the flag is written last and wins when `X = 15` (R22). -/
def State.setResultAndFlag (s : State) (x : Reg) (result : Byte) (flag : Bool) : State :=
  (s.setV x result).setFlag flag

end Sys2Proof.Machine
end

