-- ==== Sys2Proof/Machine/Operands.lean ====
section
/-! DEFINITION. The operand forms (30_encoding.md R72) and the ways an instruction uses `I`, a key index, a font digit or the
keypad (41_display.md to 46_timers_keypad.md). -/

namespace Sys2Proof.Machine

/-- `zext_16(NNN)` (R72). -/
def zextNNN (nnn : Addr12) : Word := nnn.setWidth 16

/-- `zext_16` of a register's value (42_control_flow.md R114). -/
def zextByte (b : Byte) : Word := b.setWidth 16

/-- The addresses `I`, `I + 1`, … an instruction reaches start here, as an unbounded natural (20_memory.md R52). -/
def State.dataAddr (s : State) : Nat := s.i.toNat

/-- The rows of an `N`-row sprite: the bytes at `I`..`I + N - 1` (41_display.md R101). -/
def State.spriteRows (s : State) (n : Nibble) : List Byte :=
  (accessList s.dataAddr n.toNat).map s.readByte

/-- `V[0]`..`V[X]`, the registers FX55 stores (45_index_memory.md R154). -/
def State.regsUpTo (s : State) (x : Reg) : List Byte := s.v.toList.take (x.val + 1)

/-- `V[k] <- MemRead(I + k, 1)` for `k` in `0..X` (45_index_memory.md R155). -/
def State.loadRegsUpTo (s : State) (x : Reg) : State :=
  { s with v := Vector.ofFn fun r : Fin 16 => if r ≤ x then s.readByte (s.dataAddr + r.val) else s.v[r] }

/-- `if LDST_INCREMENTS_I: I <- (I + X + 1) mod 2^16` (45_index_memory.md R154, R155). -/
def State.ldstIncrement (s : State) (x : Reg) : State :=
  if s.params.ldstIncrementsI then s.setI (BitVec.ofNat 16 (s.dataAddr + x.val + 1)) else s

/-- The digits FX33 stores: hundreds, tens, ones (45_index_memory.md R153). -/
def bcdDigits (b : Byte) : List Byte :=
  [BitVec.ofNat 8 (b.toNat / 100), BitVec.ofNat 8 (b.toNat / 10 % 10), BitVec.ofNat 8 (b.toNat % 10)]

/-- The address of a digit's glyph, `FONT_BASE + 5 * d` (45_index_memory.md R152). -/
def glyphAddr (d : Byte) : Word := BitVec.ofNat 16 (Config.fontBase + Config.glyphLen * d.toNat)

/-- The keypad flag a byte names; none when the byte is not below `NKEYS` (43_skips.md R124, R125). -/
def State.keyNamed (s : State) (b : Byte) : Option Bool :=
  if h : b.toNat < Config.nKeys then some s.key[b.toNat] else none

/-- The least `k` with `KEY[k]` down (46_timers_keypad.md R161). -/
def State.leastKeyDown (s : State) : Option Reg := (List.finRange 16).find? fun k => s.key[k]

/-! ### The framebuffer (10_state.md R30, 41_display.md R101, R102) -/

/-- The framebuffer, `fb[y][x]`. -/
abbrev Framebuffer : Type := Vector (Vector Bool 64) 32

/-- `FB[y][x]`. -/
def Framebuffer.get (fb : Framebuffer) (x : Fin 64) (y : Fin 32) : Bool := fb[y][x]

/-- `FB[y][x] <- b`. -/
def Framebuffer.set (fb : Framebuffer) (x : Fin 64) (y : Fin 32) (b : Bool) : Framebuffer :=
  Vector.set fb y.val (Vector.set fb[y] x.val b x.isLt) y.isLt

/-- Every cell off (R100). -/
def Framebuffer.clear : Framebuffer := Vector.replicate 32 (Vector.replicate 64 false)

/-- A column, modulo `FB_W` (R101). -/
def wrapX (n : Nat) : Fin 64 := ⟨n % 64, Nat.mod_lt n (by decide)⟩

/-- A row, modulo `FB_H` (R101). -/
def wrapY (n : Nat) : Fin 32 := ⟨n % 32, Nat.mod_lt n (by decide)⟩

/-- The body of DXYN's loops for a 1-bit of the sprite, on the pair of the framebuffer and `collision` (R101). -/
def togglePixel (d : Framebuffer × Bool) (x : Fin 64) (y : Fin 32) : Framebuffer × Bool :=
  (Framebuffer.set d.1 x y (!Framebuffer.get d.1 x y), d.2 || Framebuffer.get d.1 x y)

/-- DXYN's inner loop: the row's bits `7 - c` for `c` in `0..7` (R101). -/
def drawRow (x0 : Nat) (y : Nat) (row : Byte) (d : Framebuffer × Bool) : Framebuffer × Bool :=
  (List.range 8).foldl (fun d c => if row.getLsbD (7 - c) then togglePixel d (wrapX (x0 + c)) (wrapY y) else d) d

/-- DXYN's outer loop: row `r` of the sprite at line `y0 + r` (R101). -/
def drawRows (x0 : Nat) : Nat → List Byte → Framebuffer × Bool → Framebuffer × Bool
  | _, [], d => d
  | y, row :: rows, d => drawRows x0 (y + 1) rows (drawRow x0 y row d)

end Sys2Proof.Machine
end

