-- ==== Sys2Proof/Machine/Alu.lean ====
section
/-! DEFINITION. Register loads and arithmetic (44_alu.md). Every meaning is given the state before the step; operands
are read before anything is written. -/

namespace Sys2Proof.Machine

/-- R130. -/
def execLdImm (x : Reg) (nn : Byte) (s : State) : Result := .next (s.advance.setV x nn)

/-- R131: the sum wraps and no flag is touched. -/
def execAddImm (x : Reg) (nn : Byte) (s : State) : Result := .next (s.advance.setV x (s.getV x + nn))

/-- R132. -/
def execLdReg (x y : Reg) (s : State) : Result := .next (s.advance.setV x (s.getV y))

/-- R133. -/
def execOr (x y : Reg) (s : State) : Result := .next (s.advance.setV x (s.getV x ||| s.getV y))

/-- R134. -/
def execAnd (x y : Reg) (s : State) : Result := .next (s.advance.setV x (s.getV x &&& s.getV y))

/-- R135. -/
def execXor (x y : Reg) (s : State) : Result := .next (s.advance.setV x (s.getV x ^^^ s.getV y))

/-- R136. -/
def execAddReg (x y : Reg) (s : State) : Result :=
  let a := s.getV x
  let b := s.getV y
  .next (s.advance.setResultAndFlag x (BitVec.ofNat 8 (a.toNat + b.toNat)) (addCarry a b))

/-- R137. -/
def execSub (x y : Reg) (s : State) : Result :=
  let a := s.getV x
  let b := s.getV y
  .next (s.advance.setResultAndFlag x (a - b) (noBorrow a b))

/-- R138: `V[Y]` is not read. -/
def execShr (x _y : Reg) (s : State) : Result :=
  let a := s.getV x
  .next (s.advance.setResultAndFlag x (a >>> 1) (shrOut a))

/-- R139. -/
def execSubn (x y : Reg) (s : State) : Result :=
  let a := s.getV x
  let b := s.getV y
  .next (s.advance.setResultAndFlag x (b - a) (noBorrow b a))

/-- R140: `V[Y]` is not read. -/
def execShl (x _y : Reg) (s : State) : Result :=
  let a := s.getV x
  .next (s.advance.setResultAndFlag x (a <<< 1) (shlOut a))

/-- R145: one byte of the random source is taken, whatever `nn` is. -/
def execRnd (x : Reg) (nn : Byte) (s : State) : Result :=
  .next (s.advance.dropRandom.setV x (s.randomByte &&& nn))

end Sys2Proof.Machine
end

