-- ==== Sys2Proof/Machine/ControlFlow.lean ====
section
/-! DEFINITION. Control flow (42_control_flow.md). Every meaning is given the state before the step. -/

namespace Sys2Proof.Machine

/-- R110: "nothing; pc stays at p + 2 as fetch left it". -/
def execNop (s : State) : Result := .next s.advance

/-- R111, R177. A state with `SP` above 16 has no such slot and stops the model (log 4). -/
def execRet (s : State) : Result :=
  if s.sp = 0 then raiseFault .stackUnderflow .ret none s
  else if h : (s.advance.sp - 1).toNat < 16 then .next (s.advance.popPc h)
  else .fault .stackPointerIllegal

/-- R112. -/
def execJp (nnn : Addr12) (s : State) : Result := .next (s.advance.setPc (zextNNN nnn))

/-- R113, R176: the pushed value is `p + 2`. A state with `SP` above 16 has no such slot and stops the model (log 4). -/
def execCall (nnn : Addr12) (s : State) : Result :=
  if s.sp = 16 then raiseFault .stackOverflow (.call nnn) none s
  else if h : s.advance.sp.toNat < 16 then .next ((s.advance.push s.advance.pc h).setPc (zextNNN nnn))
  else .fault .stackPointerIllegal

/-- R114: the sum is not masked; it is at most 0x10FE. -/
def execJpV0 (nnn : Addr12) (s : State) : Result :=
  .next (s.advance.setPc (zextNNN nnn + zextByte (s.getV 0)))

end Sys2Proof.Machine
end

