-- ==== Sys2Proof/Machine/Display.lean ====
section
/-! DEFINITION. The display instructions (41_display.md). Every meaning is given the state before the step; `s.advance` is that
state after fetch's `pc <- p + 2` (20_memory.md R57, log 8). -/

namespace Sys2Proof.Machine

/-- R100. -/
def execCls (s : State) : Result :=
  .next (s.advance.setFb Framebuffer.clear)

/-- The draw of R101 once its addresses are known to be in bounds: every row, then `VF <- collision`. -/
def State.draw (s : State) (x y : Reg) (n : Nibble) : State :=
  let d := drawRows (s.getV x).toNat (s.getV y).toNat (s.spriteRows n) (s.fb, false)
  (s.setFb d.1).setFlag d.2

/-- R101. -/
def execDrw (x y : Reg) (n : Nibble) (s : State) : Result :=
  match lowestBad s.dataAddr n.toNat with
  | some a => raiseFault .memoryOutOfBounds (.drw x y n) (some a) s
  | none => .next (s.advance.draw x y n)

end Sys2Proof.Machine
end

