-- ==== Sys2Proof/Machine/IndexMemory.lean ====
section
/-! DEFINITION. The index register and memory transfers (45_index_memory.md). Every meaning is given the state before the
step; every address is checked before anything is written (20_memory.md R52). -/

namespace Sys2Proof.Machine

/-- R150. -/
def execLdI (nnn : Addr12) (s : State) : Result := .next (s.advance.setI (zextNNN nnn))

/-- R151: the sum wraps at 2^16 and no flag is written. -/
def execAddIVx (x : Reg) (s : State) : Result := .next (s.advance.setI (s.i + zextByte (s.getV x)))

/-- R152, R181. -/
def execLdFVx (x : Reg) (s : State) : Result :=
  if 15 < (s.getV x).toNat then raiseFault .fontDigitOutOfRange (.ldFVx x) (some (s.getV x).toNat) s
  else .next (s.advance.setI (glyphAddr (s.getV x)))

/-- R153. -/
def execLdBVx (x : Reg) (s : State) : Result :=
  match lowestBad s.dataAddr 3 with
  | some a => raiseFault .memoryOutOfBounds (.ldBVx x) (some a) s
  | none => .next (s.advance.writeBytes s.dataAddr (bcdDigits (s.getV x)))

/-- R154. -/
def execLdMemVx (x : Reg) (s : State) : Result :=
  match lowestBad s.dataAddr (x.val + 1) with
  | some a => raiseFault .memoryOutOfBounds (.ldMemVx x) (some a) s
  | none => .next ((s.advance.writeBytes s.dataAddr (s.regsUpTo x)).ldstIncrement x)

/-- R155. -/
def execLdVxMem (x : Reg) (s : State) : Result :=
  match lowestBad s.dataAddr (x.val + 1) with
  | some a => raiseFault .memoryOutOfBounds (.ldVxMem x) (some a) s
  | none => .next ((s.advance.loadRegsUpTo x).ldstIncrement x)

end Sys2Proof.Machine
end

