-- ==== Sys2Proof/Machine/Skips.lean ====
section
/-! DEFINITION. The conditional skips (43_skips.md). Every meaning is given the state before the step. -/

namespace Sys2Proof.Machine

/-- R120. -/
def execSeImm (x : Reg) (nn : Byte) (s : State) : Result := .next (s.advance.skipIf (s.getV x = nn))

/-- R121. -/
def execSneImm (x : Reg) (nn : Byte) (s : State) : Result := .next (s.advance.skipIf (s.getV x ≠ nn))

/-- R122. -/
def execSeReg (x y : Reg) (s : State) : Result := .next (s.advance.skipIf (s.getV x = s.getV y))

/-- R123. -/
def execSneReg (x y : Reg) (s : State) : Result := .next (s.advance.skipIf (s.getV x ≠ s.getV y))

/-- R124, R180. -/
def execSkp (x : Reg) (s : State) : Result :=
  match s.keyNamed (s.getV x) with
  | none => raiseFault .keypadIndexOutOfRange (.skp x) (some (s.getV x).toNat) s
  | some down => .next (s.advance.skipIf down)

/-- R125, R180. -/
def execSknp (x : Reg) (s : State) : Result :=
  match s.keyNamed (s.getV x) with
  | none => raiseFault .keypadIndexOutOfRange (.sknp x) (some (s.getV x).toNat) s
  | some down => .next (s.advance.skipIf !down)

end Sys2Proof.Machine
end

