-- ==== Sys2Proof/Machine/TimersKeypad.lean ====
section
/-! DEFINITION. The timer and key-wait instructions (46_timers_keypad.md). Every meaning is given the state before the
step. -/

namespace Sys2Proof.Machine

/-- R160. -/
def execLdVxDt (x : Reg) (s : State) : Result := .next (s.advance.setV x s.dt)

/-- R161 for `KEYWAIT = Press`: the least key down, or the same instruction again (`pc <- p`). -/
def State.keyWaitPress (s : State) (x : Reg) : State :=
  match s.leastKeyDown with
  | some k => s.advance.setV x (BitVec.ofNat 8 k.val)
  | none => s.advance.setPc s.pc

/-- R161 for `KEYWAIT = PressRelease`: a key goes down and is latched, then the wait ends when it is up. -/
def State.keyWaitPressRelease (s : State) (x : Reg) : State :=
  match s.kwait with
  | none =>
    match s.leastKeyDown with
    | some k => (s.advance.setKwait (some k)).setPc s.pc
    | none => s.advance.setPc s.pc
  | some k =>
    if s.key[k] then s.advance.setPc s.pc
    else (s.advance.setV x (BitVec.ofNat 8 k.val)).setKwait none

/-- R161. -/
def execLdVxK (x : Reg) (s : State) : Result :=
  match s.params.keywait with
  | .press => .next (s.keyWaitPress x)
  | .pressRelease => .next (s.keyWaitPressRelease x)

/-- R162. -/
def execLdDtVx (x : Reg) (s : State) : Result := .next (s.advance.setDt (s.getV x))

/-- R163. -/
def execLdStVx (x : Reg) (s : State) : Result := .next (s.advance.setSt (s.getV x))

end Sys2Proof.Machine
end

