-- ==== Sys2Proof/Machine/Fetch.lean ====
section
/-! DEFINITION. The part of a step before an instruction runs: the latch, the fetch, the decoding, in the priority of
60_exceptions.md R173 (20_memory.md R56, R57; 30_encoding.md R76, R77). -/

namespace Sys2Proof.Machine

/-- Either the state the step already ends in, or the instruction that runs.
A latched fault changes nothing (60_exceptions.md R175); a fetch past the memory and an unknown opcode latch
their faults (R56, R77). -/
def State.fetchDecode (s : State) : State ⊕ Instr :=
  if s.fault.isSome then .inl s
  else
    match lowestBad s.pc.toNat 2 with
    | some a => .inl (s.latch .memoryOutOfBounds none (some a))
    | none =>
      match decode s.params.opset s.fetchWord with
      | none => .inl (s.latch .unknownOpcode (some s.fetchWord) none)
      | some i => .inr i

/-- A state that can fetch: no fault is latched and two bytes lie at `pc`; one that cannot is moved to
`ENTRY` with its fault cleared (log 6). -/
def State.fetchable (s : State) : State :=
  if lowestBad s.pc.toNat 2 = none then { s with fault := none }
  else { s with fault := none, pc := BitVec.ofNat 16 Config.entry }

/-- `w` stored at `pc`, high byte first (20_memory.md R53). -/
def State.storeWordAtPc (s : State) (w : Word) : State :=
  s.writeBytes s.pc.toNat [highByte w, lowByte w]

end Sys2Proof.Machine
end

