-- ==== Sys2Proof/Machine/Step.lean ====
section
/-! DEFINITION. One step (20_memory.md R57, 30_encoding.md R76, 60_exceptions.md R173). -/

namespace Sys2Proof.Machine

/-- One fetch, decode and execute cycle. A step that faults answers the state with the record latched, and a step
of a faulted machine answers the same state: the record a step reports is the `fault` field of its answer
(R174, R175, log 3). -/
def step (s : State) : Host.Outcome State Fault Refusal :=
  match s.fetchDecode with
  | .inl t => .next t
  | .inr i => exec i s

/-- `s` with the instruction whose bits are `w` (numbered as spec/opcode_table.json numbers them) stored where
`step` fetches next; a machine that cannot fetch is made able to (log 6). -/
def State.withFetchWord (s : State) (nbits w : Nat) : State :=
  s.fetchable.storeWordAtPc (tableWord nbits w)

end Sys2Proof.Machine
end

