-- ==== Sys2Proof/Machine/HostPort.lean ====
section
/-! DEFINITION. The block's ports: the operations the host performs, each one atomic transaction, one at a time, in any order
(60_exceptions.md R185 to R195; log 7). -/

namespace Sys2Proof.Machine

/-- `tick_timers` (R185, R186): the state after it and the sound boundary signal. It reads neither `FAULT` nor any
instruction state (R187). -/
def State.tickTimers (s : State) : State × Bool :=
  ({ s with
      dt := if s.dt = 0 then s.dt else s.dt - 1
      st := if s.st = 0 then s.st else s.st - 1 },
   s.st = 1)

/-- `load(core, bytes)` (R193): none is `LoadTooLarge`, with nothing written. -/
def State.loadProgram (s : State) (bytes : List Byte) : Option State :=
  if Config.memSize < Config.entry + bytes.length then none
  else some (s.writeBytes Config.entry bytes)

/-- `set_key(core, k, down)` (R195): none is `KeyIndexInvalid`, with nothing changed. -/
def State.setKey (s : State) (k : Nat) (down : Bool) : Option State :=
  if h : k < 16 then some { s with key := s.key.set k down h } else none

/-- `read_framebuffer` (R194). -/
def State.readFramebuffer (s : State) : Framebuffer := s.fb

/-- The machine with the one byte the host sends for a step, used only if the word is CXNN (R190). -/
def State.supplyRandom (s : State) (r : Byte) : State := { s with randomIn := [r] }

/-- What is left of the host's byte after the step is dropped (R190). -/
def State.dropSupply (s : State) : State := { s with randomIn := [] }

/-- The operations of R190. -/
inductive HostOp where
  | construct
  | reset
  | step (random : Byte)
  | tickTimers
  | load (bytes : List Byte)
  | readFramebuffer
  | setKey (k : Nat) (down : Bool)
  deriving DecidableEq, Repr

/-- What the host gets back (R190). -/
inductive HostReply where
  | done
  | ok
  | faulted (record : FaultRecord)
  | soundBoundary (signal : Bool)
  | loadTooLarge
  | cells (fb : Vector (Vector Bool 64) 32)
  | keyIndexInvalid
  deriving DecidableEq, Repr

/-- What a step reports: `ok` or the fault record (R171, R175). -/
def State.stepReply (s : State) : HostReply :=
  match s.fault with
  | none => .ok
  | some f => .faulted f

/-- The host's `step` (R190): one random byte comes in, the state and the report go out. -/
def State.hostStep (s : State) (r : Byte) : Host.Outcome (State × HostReply) Fault Refusal :=
  match step (s.supplyRandom r) with
  | .next t => .next (t.dropSupply, t.stepReply)
  | .fault f => .fault f
  | .refused f => .refused f

/-- One operation of the host (R190). `construct` makes a new instance of the same implementation, which for
the one instance modelled is the same as `reset` (R192). -/
def hostOp (o : HostOp) (s : State) : Host.Outcome (State × HostReply) Fault Refusal :=
  match o with
  | .construct => .next (s.resetInPlace, .done)
  | .reset => .next (s.resetInPlace, .done)
  | .step r => s.hostStep r
  | .tickTimers => .next (s.tickTimers.1, .soundBoundary s.tickTimers.2)
  | .load bytes =>
    match s.loadProgram bytes with
    | some t => .next (t, .ok)
    | none => .next (s, .loadTooLarge)
  | .readFramebuffer => .next (s, .cells s.readFramebuffer)
  | .setKey k down =>
    match s.setKey k down with
    | some t => .next (t, .ok)
    | none => .next (s, .keyIndexInvalid)

/-- A schedule of host operations, stopping where the model stops (R191). -/
def runOps : List HostOp → State → Host.Outcome State Fault Refusal
  | [], s => .next s
  | o :: os, s =>
    match hostOp o s with
    | .next p => runOps os p.1
    | .fault f => .fault f
    | .refused f => .refused f

end Sys2Proof.Machine
end

