-- ==== Sys2Proof/Safety.lean ====
section
/-! DEFINITION. The terms claims are stated in: the invariant of the machine, what an instruction may change, a run that
fails and a run that finishes, and the states a host can bring about. -/

namespace Sys2Proof

open Sys2Proof.Machine

/-- The registers an instruction writes, result and flag (the `written by` column of 10_state.md R39). -/
def Instr.writesV : Instr → Reg → Bool
  | .ldImm x _, r | .addImm x _, r | .ldReg x _, r | .or x _, r | .and x _, r | .xor x _, r
  | .rnd x _, r | .ldVxDt x, r | .ldVxK x, r => r = x
  | .addReg x _, r | .sub x _, r | .shr x _, r | .subn x _, r | .shl x _, r => r = x || r = VF
  | .drw _ _ _, r => r = VF
  | .ldVxMem x, r => r ≤ x
  | .cls, _ | .ret, _ | .nop, _ | .jp _, _ | .call _, _ | .seImm _ _, _ | .sneImm _ _, _
  | .seReg _ _, _ | .sneReg _ _, _ | .ldI _, _ | .jpV0 _, _ | .skp _, _ | .sknp _, _
  | .ldDtVx _, _ | .ldStVx _, _ | .addIVx _, _ | .ldFVx _, _ | .ldBVx _, _ | .ldMemVx _, _ => false

/-- The instructions that may leave `pc` at another place than the next word (the `written by` column of 10_state.md R39,
with the fetch's own advance left out). -/
def Instr.setsPc : Instr → Bool
  | .ret | .jp _ | .call _ | .jpV0 _ | .seImm _ _ | .sneImm _ _ | .seReg _ _ | .sneReg _ _ | .skp _ | .sknp _
  | .ldVxK _ => true
  | .cls | .nop | .ldImm _ _ | .addImm _ _ | .ldReg _ _ | .or _ _ | .and _ _ | .xor _ _ | .addReg _ _
  | .sub _ _ | .shr _ _ | .subn _ _ | .shl _ _ | .ldI _ | .rnd _ _ | .drw _ _ _ | .ldVxDt _ | .ldDtVx _
  | .ldStVx _ | .addIVx _ | .ldFVx _ | .ldBVx _ | .ldMemVx _ | .ldVxMem _ => false

/-- The one kind of fault an instruction can raise, if it can raise any (60_exceptions.md R170, R172). -/
def Instr.faultKind : Instr → Option FaultKind
  | .drw _ _ _ | .ldBVx _ | .ldMemVx _ | .ldVxMem _ => some .memoryOutOfBounds
  | .call _ => some .stackOverflow
  | .ret => some .stackUnderflow
  | .skp _ | .sknp _ => some .keypadIndexOutOfRange
  | .ldFVx _ => some .fontDigitOutOfRange
  | .cls | .nop | .jp _ | .seImm _ _ | .sneImm _ _ | .seReg _ _ | .ldImm _ _ | .addImm _ _ | .ldReg _ _
  | .or _ _ | .and _ _ | .xor _ _ | .addReg _ _ | .sub _ _ | .shr _ _ | .subn _ _ | .shl _ _ | .sneReg _ _
  | .ldI _ | .jpV0 _ | .rnd _ _ | .ldVxDt _ | .ldVxK _ | .ldDtVx _ | .ldStVx _ | .addIVx _ => none

end Sys2Proof

namespace Sys2Proof.Machine

/-! ### The invariant -/

/-- The shape R171 gives a record of each kind: which have a word, and what the detail is. Only a fetch fault has no
word, and its address lies at or past 0xFFF (20_memory.md R56). -/
def FaultRecord.wf (f : FaultRecord) : Bool :=
  match f.kind, f.word, f.detail with
  | .unknownOpcode, some _, none => true
  | .memoryOutOfBounds, some _, some a => Config.memSize ≤ a
  | .memoryOutOfBounds, none, some a => Config.memSize ≤ a && 0xFFF ≤ f.pc.toNat
  | .stackOverflow, some _, none => true
  | .stackUnderflow, some _, none => true
  | .keypadIndexOutOfRange, some _, some k => 16 ≤ k && k ≤ 255
  | .fontDigitOutOfRange, some _, some d => 16 ≤ d && d ≤ 255
  | _, _, _ => false

/-- What holds of every state a run or a host can reach. -/
structure State.Inv (s : State) : Prop where
  /-- Memory is in its canonical form (log 5). -/
  memory : Memory.wf s.params.font s.mem = true
  /-- `SP` takes only 0..16 (10_state.md R26, R34). -/
  stackPointer : s.sp.toNat ≤ 16
  /-- `KWAIT` is used only by `KEYWAIT = PressRelease` (10_state.md R36). -/
  keyWait : s.params.keywait = .press → s.kwait = none
  /-- A latched record names the instruction `pc` still points at, and has the shape of its kind (60_exceptions.md
  R171, R174). -/
  record : ∀ f, s.fault = some f → f.pc = s.pc ∧ f.wf = true

/-! ### What changes and what does not -/

/-- Which pieces of state a claim lets an instruction change; the keypad, the fault latch and the parameters are
never among them, and `pc` is always told on its own. -/
structure Writes where
  v : Reg → Prop := fun _ => False
  i : Prop := False
  sp : Prop := False
  stack : Nat → Prop := fun _ => False
  mem : Nat → Prop := fun _ => False
  fb : Prop := False
  dt : Prop := False
  st : Prop := False
  kwait : Prop := False
  random : Prop := False

/-- `t` is `s` but for what `w` names, and `pc`. Memory is compared by reading every byte. -/
structure Frame (w : Writes) (s t : State) : Prop where
  v : ∀ r, ¬ w.v r → t.getV r = s.getV r
  i : ¬ w.i → t.i = s.i
  sp : ¬ w.sp → t.sp = s.sp
  stack : ∀ (k : Nat) (h : k < 16), ¬ w.stack k → t.stack[k] = s.stack[k]
  mem : ∀ a, ¬ w.mem a → t.readByte a = s.readByte a
  fb : ¬ w.fb → ∀ x y, Framebuffer.get t.fb x y = Framebuffer.get s.fb x y
  dt : ¬ w.dt → t.dt = s.dt
  st : ¬ w.st → t.st = s.st
  kwait : ¬ w.kwait → t.kwait = s.kwait
  random : ¬ w.random → t.randomIn = s.randomIn ∧ t.draws = s.draws
  key : t.key = s.key
  fault : t.fault = s.fault
  params : t.params = s.params

/-- The state a fault of the instruction `i` leaves: the one before the step, with the record latched (R171, R174). -/
def State.faulted (s : State) (i : Instr) (kind : FaultKind) (detail : Option Nat) : State :=
  { s with fault := some { kind := kind, pc := s.pc, word := some (encode i), detail := detail } }

/-- The sprite of `n` rows at `I`, drawn at (`x0`, `y0`), has a 1-bit at the cell (`px`, `py`) (41_display.md R101, R102). -/
def State.spriteCovers (s : State) (x0 y0 : Nat) (n : Nibble) (px : Fin 64) (py : Fin 32) : Prop :=
  ∃ r < n.toNat, ∃ c < 8,
    (s.readByte (s.i.toNat + r)).getLsbD (7 - c) = true ∧ px.val = (x0 + c) % 64 ∧ py.val = (y0 + r) % 32

/-- The byte at `a` once the bytes `bs` lie at `base`, `base + 1`, …, over the memory of `s`. -/
def State.byteUnder (s : State) (base : Nat) (bs : List Byte) (a : Nat) : Byte :=
  if h : base ≤ a ∧ a - base < bs.length then bs[a - base] else s.readByte a

/-- The next step of `t` fetches the word `w`: it runs what `w` decodes to, or faults on `w`. -/
def State.StepsOn (t : State) (w : Word) : Prop :=
  (∀ j, decode t.params.opset w = some j → step t = exec j t) ∧
    (decode t.params.opset w = none → step t = .next (t.latch .unknownOpcode (some w) none))

/-! ### Runs -/

/-- The run has failed: a fault is latched (60_exceptions.md R199). -/
def State.failed (s : State) : Prop := s.fault ≠ none

/-- The run has finished: no fault, and the word at `pc` jumps to itself (60_exceptions.md R199). -/
def State.finished (s : State) : Prop :=
  s.fault = none ∧ s.pc.toNat ≤ 0xFFE ∧ s.fetchWord = 0x1000#16 ||| s.pc

/-- A safe run of `k` steps: the model does not stop and no fault is latched. -/
def State.safeFor (k : Nat) (s : State) : Prop :=
  ∃ t, Host.Core.run Sys2Proof.core k s = .next t ∧ t.fault = none

/-- Instructions executed one after the other, each from the state the one before leaves. -/
def execAll : List Instr → State → Result
  | [], s => .next s
  | i :: is, s =>
    match exec i s with
    | .next t => execAll is t
    | .fault f => .fault f
    | .refused r => .refused r

/-- `n` timer ticks in a row. -/
def State.ticks : Nat → State → State
  | 0, s => s
  | n + 1, s => State.ticks n s.tickTimers.1

/-- The states a host can bring about on an implementation with parameters `p`: a constructed machine and any
operations of 60_exceptions.md R190, in any order (R191). -/
inductive Reachable (p : Params) : State → Prop where
  | construct (n : Nat) : Reachable p (State.construct p n)
  | op {s t : State} {reply : HostReply} (o : HostOp) :
      Reachable p s → hostOp o s = .next (t, reply) → Reachable p t

end Sys2Proof.Machine
end

