-- ==== Sys2Proof/Certificates/Slice0/Obligations.lean ====
section
/-! DEFINITION. The statements for the provers. Each docstring names the rule of spec/ it formalises, and the spec's own
decision (D<n> of 92_eei_decisions.md) or the log entry where a clause rests on one. -/

open Sys2Proof Sys2Proof.Machine

/-! ## Encoding -/

/-- One word of each family, written out bit by bit from the patterns of 30_encoding.md R75, decodes to the instruction it
stands for, and three words the table leaves out decode to nothing (R77). -/
def Obligations.SpecWordsDecode : Prop :=
  decode .snapshot 0b0000000011100000#16 = some .cls ∧
  decode .snapshot 0b0000000011101110#16 = some .ret ∧
  decode .snapshot 0b0010010000000011#16 = some (.call 0x403) ∧
  decode .snapshot 0b0101000100100000#16 = some (.seReg 1 2) ∧
  decode .snapshot 0b1000101110110100#16 = some (.addReg 11 11) ∧
  decode .snapshot 0b1010001000001100#16 = some (.ldI 0x20C) ∧
  decode .snapshot 0b1101000100100101#16 = some (.drw 1 2 5) ∧
  decode .canonical 0b1110001110100001#16 = some (.sknp 3) ∧
  decode .canonical 0b1111010100001010#16 = some (.ldVxK 5) ∧
  decode .canonical 0b1111111101010101#16 = some (.ldMemVx 15) ∧
  decode .canonical 0b0101000100100001#16 = none ∧
  decode .canonical 0b1000000000001000#16 = none ∧
  decode .snapshot 0b1111000000110011#16 = none

/-- Decoding the word of a well-formed instruction gives the instruction back, every operand at every value
(30_encoding.md R71, R75). -/
def Obligations.DecodeOfEncodeIsTheInstruction : Prop :=
  ∀ (o : Opset) (i : Instr), i.wellFormed o = true → decode o (encode i) = some i

/-- A word that decodes is the word of the instruction it decodes to, and that instruction is of the opcode set: no bit
of a word is dropped (30_encoding.md R71, R75). -/
def Obligations.EncodeOfDecodeIsTheWord : Prop :=
  ∀ (o : Opset) (w : Word) (i : Instr), decode o w = some i → encode i = w ∧ i.wellFormed o = true

/-- The opcode map of 30_encoding.md R75 with its fields of R70 and R72, every row at every operand value: the word is the
row's match value plus the fields in their places. Rows 26 to 35 decode only under Canonical (the spec's decision D1;
their bit patterns the spec marks as general knowledge). -/
def Obligations.OpcodeMapDecodesAsWritten : Prop :=
  ∀ (x y : Reg) (n : Nibble) (nn : Byte) (nnn : Addr12),
    let word (pattern fields : Nat) : Word := BitVec.ofNat 16 (pattern + fields)
    let fx := 0x100 * x.val
    let fxy := 0x100 * x.val + 0x10 * y.val
    let both (w : Word) (i : Instr) : Prop := decode .snapshot w = some i ∧ decode .canonical w = some i
    let only (w : Word) (i : Instr) : Prop := decode .snapshot w = none ∧ decode .canonical w = some i
    both (word 0x00E0 0) .cls ∧ both (word 0x00EE 0) .ret ∧ both (word 0x0000 0) .nop ∧
    both (word 0x1000 nnn.toNat) (.jp nnn) ∧ both (word 0x2000 nnn.toNat) (.call nnn) ∧
    both (word 0x3000 (fx + nn.toNat)) (.seImm x nn) ∧ both (word 0x4000 (fx + nn.toNat)) (.sneImm x nn) ∧
    both (word 0x5000 fxy) (.seReg x y) ∧
    both (word 0x6000 (fx + nn.toNat)) (.ldImm x nn) ∧ both (word 0x7000 (fx + nn.toNat)) (.addImm x nn) ∧
    both (word 0x8000 fxy) (.ldReg x y) ∧ both (word 0x8001 fxy) (.or x y) ∧
    both (word 0x8002 fxy) (.and x y) ∧ both (word 0x8003 fxy) (.xor x y) ∧
    both (word 0x8004 fxy) (.addReg x y) ∧ both (word 0x8005 fxy) (.sub x y) ∧
    both (word 0x8006 fxy) (.shr x y) ∧ both (word 0x8007 fxy) (.subn x y) ∧
    both (word 0x800E fxy) (.shl x y) ∧ both (word 0x9000 fxy) (.sneReg x y) ∧
    both (word 0xA000 nnn.toNat) (.ldI nnn) ∧ both (word 0xB000 nnn.toNat) (.jpV0 nnn) ∧
    both (word 0xC000 (fx + nn.toNat)) (.rnd x nn) ∧ both (word 0xD000 (fxy + n.toNat)) (.drw x y n) ∧
    both (word 0xE09E fx) (.skp x) ∧ only (word 0xE0A1 fx) (.sknp x) ∧
    only (word 0xF007 fx) (.ldVxDt x) ∧ only (word 0xF00A fx) (.ldVxK x) ∧
    only (word 0xF015 fx) (.ldDtVx x) ∧ only (word 0xF018 fx) (.ldStVx x) ∧
    only (word 0xF01E fx) (.addIVx x) ∧ only (word 0xF029 fx) (.ldFVx x) ∧
    only (word 0xF033 fx) (.ldBVx x) ∧ only (word 0xF055 fx) (.ldMemVx x) ∧
    only (word 0xF065 fx) (.ldVxMem x)

/-- The unknown opcodes are exactly those of 30_encoding.md R77's list, in both opcode sets (that no other 0NNN is decoded is
the spec's decision D10). -/
def Obligations.UnknownOpcodesAreExactlyThese : Prop :=
  ∀ w : Word,
    let a := w.toNat / 4096
    let nnn := w.toNat % 4096
    let nn := w.toNat % 256
    let n := w.toNat % 16
    let always : Prop :=
      a = 0 ∧ nnn ≠ 0 ∧ nnn ≠ 0x0E0 ∧ nnn ≠ 0x0EE ∨ (a = 5 ∨ a = 9) ∧ n ≠ 0 ∨
        a = 8 ∧ n ∈ [8, 9, 0xA, 0xB, 0xC, 0xD, 0xF]
    (decode .canonical w = none ↔
      always ∨ a = 0xE ∧ nn ∉ [0x9E, 0xA1] ∨
        a = 0xF ∧ nn ∉ [0x07, 0x0A, 0x15, 0x18, 0x1E, 0x29, 0x33, 0x55, 0x65]) ∧
    (decode .snapshot w = none ↔ always ∨ a = 0xE ∧ nn ≠ 0x9E ∨ a = 0xF)

/-- No word selects two rows of the dispatch table (30_encoding.md R74), so the order of the rows does not matter. -/
def Obligations.NoWordSelectsTwoRows : Prop :=
  ∀ (o : Opset) (w : Word) (j k : Nat) (r q : Row),
    dispatchTable[j]? = some r → dispatchTable[k]? = some q →
    r.selects o w = true → q.selects o w = true → j = k

/-! ## The step -/

/-- A step runs the decoded instruction: with no fault latched and two bytes at `pc` that decode to `i`, high byte first, step
is exec of `i` at that state; exec itself includes the fetch's `pc <- p + 2` (20_memory.md R53, R57, 30_encoding.md R76;
log 8). -/
def Obligations.StepRunsTheDecodedInstruction : Prop :=
  ∀ (s : State) (i : Instr), s.fault = none → s.pc.toNat + 1 < 4096 →
    decode s.params.opset (s.readByte s.pc.toNat ++ s.readByte (s.pc.toNat + 1)) = some i →
    step s = exec i s

/-- A fetch past the end of memory latches MemoryOutOfBounds with no word and the lowest bad address, and changes nothing
else (20_memory.md R56; the spec's decision D4). -/
def Obligations.FetchPastMemoryFaults : Prop :=
  ∀ s : State, s.fault = none → 0xFFF ≤ s.pc.toNat →
    step s = .next
      { s with
        fault := some { kind := .memoryOutOfBounds, pc := s.pc, word := none,
                        detail := some (if 4096 ≤ s.pc.toNat then s.pc.toNat else s.pc.toNat + 1) } }

/-- A word that decodes to nothing latches UnknownOpcode with the raw word and its address, and changes nothing else
(60_exceptions.md R179, R174; the precise faulted state is the spec's decision D2). -/
def Obligations.UnknownOpcodeFaults : Prop :=
  ∀ s : State, s.fault = none → s.pc.toNat + 1 < 4096 →
    decode s.params.opset (s.readByte s.pc.toNat ++ s.readByte (s.pc.toNat + 1)) = none →
    step s = .next
      { s with
        fault := some { kind := .unknownOpcode, pc := s.pc, detail := none,
                        word := some (s.readByte s.pc.toNat ++ s.readByte (s.pc.toNat + 1)) } }

/-- Once a fault is latched, every later step changes nothing of the machine's and the host gets the same record back from it,
and of the host's operations only construct and reset clear it (60_exceptions.md R175, R190; the spec's decision D2; that a
step of a faulted machine is a next state is log 3, and that a host's step leaves the model's list of supplied bytes
empty is log 2). -/
def Obligations.LatchedFaultIsSticky : Prop :=
  ∀ (s : State) (f : FaultRecord), s.fault = some f →
    (∀ k, Host.Core.run core k s = .next s) ∧
    (∀ r, hostOp (.step r) s = .next ({ s with randomIn := [] }, .faulted f)) ∧
    (∀ o, o ≠ .construct → o ≠ .reset → ∃ t reply, hostOp o s = .next (t, reply) ∧ t.fault = some f)

/-- A step that faults changes nothing but the latch, and the record holds the address of the faulting instruction and, but for
a fetch fault, the word that was fetched (60_exceptions.md R171, R174; the spec's decisions D2, D3). -/
def Obligations.FaultingStepIsPreciseAndAtomic : Prop :=
  ∀ s t : State, s.fault = none → step s = .next t → t.fault ≠ none →
    ∃ f, t = { s with fault := some f } ∧ f.pc = s.pc ∧ f.wf = true ∧
      (f.word = some s.fetchWord ∨ f.word = none ∧ 0xFFF ≤ s.pc.toNat)

/-- An instruction raises at most its own kind of fault, and those R172 lists raise none (60_exceptions.md R170, R172). -/
def Obligations.InstructionRaisesOnlyItsOwnFault : Prop :=
  ∀ (i : Instr) (s t : State), exec i s = .next t →
    t.fault = s.fault ∨ ∃ f, t.fault = some f ∧ i.faultKind = some f.kind

/-- What an instruction changes, it is one of the writers of: by the rows of 10_state.md R39 for V, VF, `pc`, `I`, `SP`, memory,
FB, KEY, DT and ST, as seen over a whole step (log 8: exec does the fetch's `pc <- p + 2`, so a writer of `pc` is one that may
leave it elsewhere), and an instruction that latches a fault changes nothing else. Other than that table: STACK is changed by
CALL alone, since a pop keeps its slot (10_state.md R27, the spec's decision D28; the row names 00EE too); KWAIT is changed by
FX0A alone (46_timers_keypad.md R161, no row; log 16); and the model's own fields, the random source changed by CXNN alone (log
2) and the parameters by none (log 1). -/
def Obligations.EachStateElementHasOnlyItsWriters : Prop :=
  ∀ (i : Instr) (s t : State), s.Inv → exec i s = .next t →
    (∀ r, t.getV r ≠ s.getV r → i.writesV r = true) ∧
    (t.pc ≠ s.pc + 2 → i.setsPc = true ∨ ∃ f, t = { s with fault := some f }) ∧
    (t.i ≠ s.i → (∃ nnn, i = .ldI nnn) ∨ (∃ x, i = .addIVx x) ∨ (∃ x, i = .ldFVx x) ∨
      s.params.ldstIncrementsI = true ∧ ((∃ x, i = .ldMemVx x) ∨ ∃ x, i = .ldVxMem x)) ∧
    (t.sp ≠ s.sp → i = .ret ∨ ∃ nnn, i = .call nnn) ∧
    (t.stack ≠ s.stack → ∃ nnn, i = .call nnn) ∧
    (∀ a, t.readByte a ≠ s.readByte a → a < 4096 ∧ ((∃ x, i = .ldBVx x) ∨ ∃ x, i = .ldMemVx x)) ∧
    (t.fb ≠ s.fb → i = .cls ∨ ∃ x y n, i = .drw x y n) ∧
    (t.dt ≠ s.dt → ∃ x, i = .ldDtVx x) ∧
    (t.st ≠ s.st → ∃ x, i = .ldStVx x) ∧
    (t.kwait ≠ s.kwait → s.params.keywait = .pressRelease ∧ ∃ x, i = .ldVxK x) ∧
    (t.randomIn ≠ s.randomIn ∨ t.draws ≠ s.draws → ∃ x nn, i = .rnd x nn) ∧
    (t.fault ≠ s.fault → t = { s with fault := t.fault }) ∧ t.key = s.key ∧ t.params = s.params

/-- Every step keeps the invariant: memory stays canonical, `SP` stays in 0..16, `KWAIT` stays unused under Press, and
a latched record names the instruction at `pc` and has the shape of its kind (10_state.md R26, R36; 60_exceptions.md R171,
R174; log 5). -/
def Obligations.StepKeepsTheInvariant : Prop :=
  ∀ s t : State, s.Inv → step s = .next t → t.Inv

/-- A constructed machine, and the machine after reset, meet the invariant. -/
def Obligations.ConstructedMachineMeetsTheInvariant : Prop :=
  (∀ (p : Params) (n : Nat), (State.construct p n).Inv) ∧ State.reset.Inv

/-- From every state that meets the invariant the machine goes on: a step answers a next state, never a fault or a refusal of
the model (no instruction is left without a meaning; log 3, log 4). -/
def Obligations.StepAlwaysAnswersANextState : Prop :=
  ∀ s : State, s.Inv → ∃ t, step s = .next t

/-- Every operation of the host, from every state that meets the invariant, answers, keeps the invariant and keeps the
parameters; so they hold after any operations on a constructed machine, in any order (60_exceptions.md R190, R191; the
operations as functions are log 7, the parameters log 1). -/
def Obligations.EveryHostScheduleKeepsTheInvariant : Prop :=
  (∀ (o : HostOp) (s : State), s.Inv →
    ∃ t reply, hostOp o s = .next (t, reply) ∧ t.Inv ∧ t.params = s.params) ∧
  ∀ (p : Params) (s : State), Reachable p s → s.Inv ∧ s.params = p

/-- A word placed where the machine fetches is the instruction the very next step runs, in every state that meets the
invariant, and no other byte of memory is changed (the model's own placement, log 6). -/
def Obligations.PlacedWordIsTheNextInstruction : Prop :=
  ∀ (s : State) (i : Instr), s.Inv → i.wellFormed s.params.opset = true →
    let p := s.withFetchWord 16 (encode i).toNat
    step p = exec i p ∧ p.Inv ∧ p.pc.toNat + 1 < 4096 ∧ p.v = s.v ∧ p.i = s.i ∧ p.sp = s.sp ∧
      (∀ a, a ≠ p.pc.toNat → a ≠ p.pc.toNat + 1 → p.readByte a = s.readByte a) ∧
      (s.fault = none → s.pc.toNat + 1 < 4096 → p.pc = s.pc)

/-! ## Display -/

/-- 0x00E0 is CLS, which turns every cell off, whatever it was, and changes nothing else (41_display.md R100). -/
def Obligations.ClsTurnsEveryCellOff : Prop :=
  (∀ o, decode o 0x00E0 = some .cls) ∧
  ∀ s : State, ∃ t, exec .cls s = .next t ∧ t.pc = s.pc + 2 ∧
    (∀ x y, Framebuffer.get t.fb x y = false) ∧ Frame { fb := True } s t

/-- DXYN: exactly the cells the sprite covers flip, VF tells whether one of them was lit, and nothing else changes; a sprite
that would read past memory faults with the lowest bad address and draws nothing (41_display.md R101, R102). That VF is
written last, that N = 0 sets VF to 0, and the fault are the spec's decisions D7 and D30. -/
def Obligations.DrwFlipsTheSpriteAndReportsCollision : Prop :=
  ∀ (x y : Reg) (n : Nibble) (s : State),
    (n.toNat = 0 ∨ s.i.toNat + n.toNat ≤ 4096 →
      let covers := s.spriteCovers (s.getV x).toNat (s.getV y).toNat n
      ∃ t, exec (.drw x y n) s = .next t ∧ t.pc = s.pc + 2 ∧
        (∀ px py, covers px py → Framebuffer.get t.fb px py = !Framebuffer.get s.fb px py) ∧
        (∀ px py, ¬ covers px py → Framebuffer.get t.fb px py = Framebuffer.get s.fb px py) ∧
        ((∃ px py, covers px py ∧ Framebuffer.get s.fb px py = true) → t.getV VF = 1) ∧
        ((¬ ∃ px py, covers px py ∧ Framebuffer.get s.fb px py = true) → t.getV VF = 0) ∧
        Frame { v := fun r => r = VF, fb := True } s t) ∧
    (n.toNat ≠ 0 → 4096 < s.i.toNat + n.toNat →
      exec (.drw x y n) s
        = .next (s.faulted (.drw x y n) .memoryOutOfBounds (some (max s.i.toNat 4096))))

/-- Drawing the same sprite twice restores every cell, and the second draw reports a collision exactly when the first one lit
a cell (the source's scenario, 95_test_vectors.md TV3; derived from 41_display.md R101). Neither coordinate register may be
VF, which the first draw overwrites. -/
def Obligations.DrawingTwiceErases : Prop :=
  ∀ (x y : Reg) (n : Nibble) (s : State), x ≠ VF → y ≠ VF →
    (n.toNat = 0 ∨ s.i.toNat + n.toNat ≤ 4096) →
    ∃ t u, exec (.drw x y n) s = .next t ∧ exec (.drw x y n) t = .next u ∧
      (∀ px py, Framebuffer.get u.fb px py = Framebuffer.get s.fb px py) ∧
      (u.getV VF = 1 ↔ ∃ px py, s.spriteCovers (s.getV x).toNat (s.getV y).toNat n px py ∧
        Framebuffer.get s.fb px py = false)

/-! ## Control flow -/

/-- 0000 only advances `pc` (42_control_flow.md R110; that it does not stop the core is the spec's decision D9). -/
def Obligations.NopOnlyAdvances : Prop :=
  ∀ s : State, ∃ t, exec .nop s = .next t ∧ t.pc = s.pc + 2 ∧ Frame {} s t

/-- 1NNN is JP, which puts NNN in `pc`, whatever it is, and changes nothing else (42_control_flow.md R112). -/
def Obligations.JpSetsPc : Prop :=
  ∀ (nnn : Addr12) (s : State), (∀ o, decode o (BitVec.ofNat 16 (0x1000 + nnn.toNat)) = some (.jp nnn)) ∧ ∃ t, exec (.jp nnn) s = .next t ∧ t.pc.toNat = nnn.toNat ∧ Frame {} s t

/-- BNNN puts NNN + V[0] in `pc`, unmasked, and changes nothing else (42_control_flow.md R114; that the sum is not
masked is the spec's decision D13). -/
def Obligations.JpV0SetsPcToTheSum : Prop :=
  ∀ (nnn : Addr12) (s : State), ∃ t, exec (.jpV0 nnn) s = .next t ∧
    t.pc.toNat = nnn.toNat + (s.getV 0).toNat ∧ Frame {} s t

/-- 2NNN pushes `p + 2` and jumps; with 16 slots full it faults; with `SP` past 16, a state no run reaches, the model
stops (42_control_flow.md R113, 60_exceptions.md R176; the fault is the spec's decision D5, the stop is log 4). -/
def Obligations.CallPushesTheReturnAddress : Prop :=
  ∀ (nnn : Addr12) (s : State),
    (∀ h : s.sp.toNat < 16, ∃ t, exec (.call nnn) s = .next t ∧ t.pc.toNat = nnn.toNat ∧
      t.stack[s.sp.toNat] = s.pc + 2 ∧ t.sp.toNat = s.sp.toNat + 1 ∧
      Frame { sp := True, stack := fun k => k = s.sp.toNat } s t) ∧
    (s.sp.toNat = 16 → exec (.call nnn) s = .next (s.faulted (.call nnn) .stackOverflow none)) ∧
    (16 < s.sp.toNat → exec (.call nnn) s = .fault .stackPointerIllegal)

/-- 00EE pops into `pc`, leaving the slot as it was; with an empty stack it faults; with `SP` past 16, a state no run
reaches, the model stops (42_control_flow.md R111, 10_state.md R27, 60_exceptions.md R177; the fault is the spec's decision D5,
the kept slot D28, the stop log 4). -/
def Obligations.RetPopsIntoPc : Prop :=
  ∀ s : State,
    (∀ h : 0 < s.sp.toNat ∧ s.sp.toNat ≤ 16, ∃ t, exec .ret s = .next t ∧
      t.pc = s.stack[s.sp.toNat - 1] ∧ t.sp.toNat + 1 = s.sp.toNat ∧ Frame { sp := True } s t) ∧
    (s.sp.toNat = 0 → exec .ret s = .next (s.faulted .ret .stackUnderflow none)) ∧
    (16 < s.sp.toNat → exec .ret s = .fault .stackPointerIllegal)

/-- Calls nested to any depth the stack has room for, and as many returns, come back to the instruction after the first call
with `SP` as before and every slot below it untouched (the source's property S2, 95_test_vectors.md TV1; derived from
42_control_flow.md R111, R113). -/
def Obligations.NestedCallsAndReturnsComeBack : Prop :=
  ∀ (targets : List Addr12) (s : State), targets ≠ [] → s.sp.toNat + targets.length ≤ 16 →
    ∃ t, execAll (targets.map Instr.call ++ List.replicate targets.length .ret) s = .next t ∧
      t.pc = s.pc + 2 ∧ Frame { stack := fun k => s.sp.toNat ≤ k } s t

/-! ## Skips -/

/-- 3XNN and 4XNN skip the next word when V[X] is, or is not, NN, and change nothing else (43_skips.md R120, R121). -/
def Obligations.ImmediateSkips : Prop :=
  ∀ (x : Reg) (nn : Byte) (s : State),
    (∀ o, decode o (BitVec.ofNat 16 (0x3000 + 0x100 * x.val + nn.toNat)) = some (.seImm x nn) ∧
      decode o (BitVec.ofNat 16 (0x4000 + 0x100 * x.val + nn.toNat)) = some (.sneImm x nn)) ∧
    (∃ t, exec (.seImm x nn) s = .next t ∧ Frame {} s t ∧
      t.pc = if s.getV x = nn then s.pc + 4 else s.pc + 2) ∧
    (∃ t, exec (.sneImm x nn) s = .next t ∧ Frame {} s t ∧
      t.pc = if s.getV x = nn then s.pc + 2 else s.pc + 4)

/-- 5XY0 and 9XY0 skip the next word when V[X] is, or is not, V[Y], and change nothing else; with another low nibble
those words are unknown opcodes (43_skips.md R122, R123). -/
def Obligations.RegisterSkips : Prop :=
  ∀ (x y : Reg) (s : State),
    (∀ o, decode o (BitVec.ofNat 16 (0x5000 + 0x100 * x.val + 0x10 * y.val)) = some (.seReg x y) ∧
      decode o (BitVec.ofNat 16 (0x9000 + 0x100 * x.val + 0x10 * y.val)) = some (.sneReg x y) ∧
      ∀ n : Nibble, n ≠ 0 →
        decode o (BitVec.ofNat 16 (0x5000 + 0x100 * x.val + 0x10 * y.val + n.toNat)) = none ∧
        decode o (BitVec.ofNat 16 (0x9000 + 0x100 * x.val + 0x10 * y.val + n.toNat)) = none) ∧
    (∃ t, exec (.seReg x y) s = .next t ∧ Frame {} s t ∧
      t.pc = if s.getV x = s.getV y then s.pc + 4 else s.pc + 2) ∧
    (∃ t, exec (.sneReg x y) s = .next t ∧ Frame {} s t ∧
      t.pc = if s.getV x = s.getV y then s.pc + 2 else s.pc + 4)

/-- EX9E and EXA1 skip the next word when the key V[X] names is down, or up, and change nothing else; a V[X] of 16 or more
faults with that value (43_skips.md R124, R125, 60_exceptions.md R180; the fault is the spec's decision D6, EXA1 its D1). -/
def Obligations.KeySkips : Prop :=
  ∀ (x : Reg) (s : State),
    (∀ h : (s.getV x).toNat < 16,
      (∃ t, exec (.skp x) s = .next t ∧ Frame {} s t ∧
        t.pc = if s.key[(s.getV x).toNat] = true then s.pc + 4 else s.pc + 2) ∧
      (∃ t, exec (.sknp x) s = .next t ∧ Frame {} s t ∧
        t.pc = if s.key[(s.getV x).toNat] = true then s.pc + 2 else s.pc + 4)) ∧
    (16 ≤ (s.getV x).toNat →
      exec (.skp x) s = .next (s.faulted (.skp x) .keypadIndexOutOfRange (some (s.getV x).toNat)) ∧
      exec (.sknp x) s = .next (s.faulted (.sknp x) .keypadIndexOutOfRange (some (s.getV x).toNat)))

/-! ## Loads and arithmetic -/

/-- 6XNN loads NN and 8XY0 copies V[Y]; nothing else changes, VF included unless it is V[X] (44_alu.md R130, R132). -/
def Obligations.LoadsIntoARegister : Prop :=
  ∀ (x y : Reg) (nn : Byte) (s : State),
    (∀ o, decode o (BitVec.ofNat 16 (0x6000 + 0x100 * x.val + nn.toNat)) = some (.ldImm x nn) ∧
      decode o (BitVec.ofNat 16 (0x8000 + 0x100 * x.val + 0x10 * y.val)) = some (.ldReg x y)) ∧
    (∃ t, exec (.ldImm x nn) s = .next t ∧ t.pc = s.pc + 2 ∧ t.getV x = nn ∧
      Frame { v := fun r => r = x } s t) ∧
    (∃ t, exec (.ldReg x y) s = .next t ∧ t.pc = s.pc + 2 ∧ t.getV x = s.getV y ∧
      Frame { v := fun r => r = x } s t)

/-- 7XNN adds NN to V[X] modulo 256 and writes no flag (44_alu.md R131). -/
def Obligations.AddImmediateWrapsWithoutAFlag : Prop :=
  ∀ (x : Reg) (nn : Byte) (s : State),
    (∀ o, decode o (BitVec.ofNat 16 (0x7000 + 0x100 * x.val + nn.toNat)) = some (.addImm x nn)) ∧
    ∃ t, exec (.addImm x nn) s = .next t ∧ t.pc = s.pc + 2 ∧
    (t.getV x).toNat = ((s.getV x).toNat + nn.toNat) % 256 ∧ Frame { v := fun r => r = x } s t

/-- 8XY1, 8XY2, 8XY3 combine V[X] and V[Y] bit by bit into V[X] and leave VF (44_alu.md R133, R134, R135; that VF is left
is the spec's decision D8). -/
def Obligations.LogicIsBitwiseAndLeavesVF : Prop :=
  ∀ (x y : Reg) (s : State),
    (∃ t, exec (.or x y) s = .next t ∧ t.pc = s.pc + 2 ∧ Frame { v := fun r => r = x } s t ∧
      ∀ k < 8, (t.getV x).getLsbD k = ((s.getV x).getLsbD k || (s.getV y).getLsbD k)) ∧
    (∃ t, exec (.and x y) s = .next t ∧ t.pc = s.pc + 2 ∧ Frame { v := fun r => r = x } s t ∧
      ∀ k < 8, (t.getV x).getLsbD k = ((s.getV x).getLsbD k && (s.getV y).getLsbD k)) ∧
    (∃ t, exec (.xor x y) s = .next t ∧ t.pc = s.pc + 2 ∧ Frame { v := fun r => r = x } s t ∧
      ∀ k < 8, (t.getV x).getLsbD k = ((s.getV x).getLsbD k != (s.getV y).getLsbD k))

/-- 8XY4: V[X] is the sum modulo 256 and VF is 1 exactly when the sum exceeds 255; with X = 15 the carry is what VF holds
(44_alu.md R136; that the flag is written last is the spec's decision D7). -/
def Obligations.AddRegistersWritesSumAndCarry : Prop :=
  ∀ (x y : Reg) (s : State), ∃ t, exec (.addReg x y) s = .next t ∧ t.pc = s.pc + 2 ∧
    (x ≠ VF → (t.getV x).toNat = ((s.getV x).toNat + (s.getV y).toNat) % 256) ∧
    t.getV VF = (if 255 < (s.getV x).toNat + (s.getV y).toNat then 1 else 0) ∧
    Frame { v := fun r => r = x ∨ r = VF } s t

/-- 8XY5 and 8XY7: V[X] is the wrapped difference and VF is 1 exactly when there is no borrow; with X = 15 the flag is what
VF holds (44_alu.md R137, R139; the flag written last is the spec's decision D7). -/
def Obligations.SubtractionsWriteDifferenceAndNoBorrow : Prop :=
  ∀ (x y : Reg) (s : State),
    let a := (s.getV x).toNat
    let b := (s.getV y).toNat
    (∃ t, exec (.sub x y) s = .next t ∧ t.pc = s.pc + 2 ∧
      (x ≠ VF → ((t.getV x).toNat : Int) = ((a : Int) - b) % 256) ∧
      t.getV VF = (if b ≤ a then 1 else 0) ∧ Frame { v := fun r => r = x ∨ r = VF } s t) ∧
    (∃ t, exec (.subn x y) s = .next t ∧ t.pc = s.pc + 2 ∧
      (x ≠ VF → ((t.getV x).toNat : Int) = ((b : Int) - a) % 256) ∧
      t.getV VF = (if a ≤ b then 1 else 0) ∧ Frame { v := fun r => r = x ∨ r = VF } s t)

/-- 8XY6 and 8XYE halve and double V[X], and VF is the bit shifted out, whatever V[Y] is; with X = 15 that bit is what VF
holds (44_alu.md R138, R140; the flag written last is the spec's decision D7). -/
def Obligations.ShiftsMoveOneBitIntoVF : Prop :=
  ∀ (x y : Reg) (s : State),
    let a := (s.getV x).toNat
    (∃ t, exec (.shr x y) s = .next t ∧ t.pc = s.pc + 2 ∧
      (x ≠ VF → (t.getV x).toNat = a / 2) ∧ (t.getV VF).toNat = a % 2 ∧
      Frame { v := fun r => r = x ∨ r = VF } s t) ∧
    (∃ t, exec (.shl x y) s = .next t ∧ t.pc = s.pc + 2 ∧
      (x ≠ VF → (t.getV x).toNat = 2 * a % 256) ∧ (t.getV VF).toNat = a / 128 ∧
      Frame { v := fun r => r = x ∨ r = VF } s t)

/-- CXNN masks the random byte with NN and takes exactly one byte of the source: the first the host supplied, or else a free
value, of which nothing is said (44_alu.md R145, R146; the injected byte is the spec's decision D21, its form here log 2). -/
def Obligations.RndMasksOneRandomByte : Prop :=
  ∀ (x : Reg) (nn : Byte) (s : State), ∃ t, exec (.rnd x nn) s = .next t ∧ t.pc = s.pc + 2 ∧
    (∀ r rest, s.randomIn = r :: rest → t.getV x = r &&& nn ∧ t.randomIn = rest) ∧
    (s.randomIn = [] → t.getV x = Config.randomByte s.draws &&& nn ∧ t.randomIn = []) ∧
    t.draws = s.draws + 1 ∧ Frame { v := fun r => r = x, random := True } s t

/-- The byte the host sends with a step is used only if the word is CXNN: any other step answers the same whatever the byte,
and CXNN's register is that byte masked (60_exceptions.md R190, 44_alu.md R146; log 2). -/
def Obligations.RandomByteReachesOnlyRnd : Prop :=
  ∀ (s : State) (r r' : Byte),
    ((∀ x nn, decode s.params.opset s.fetchWord ≠ some (.rnd x nn)) →
      hostOp (.step r) s = hostOp (.step r') s) ∧
    (∀ x nn, s.fault = none → s.pc.toNat + 1 < 4096 →
      decode s.params.opset s.fetchWord = some (.rnd x nn) →
      ∃ t, hostOp (.step r) s = .next (t, .ok) ∧ t.getV x = r &&& nn)

/-! ## The index register and memory -/

/-- ANNN puts NNN in `I` and changes nothing else (45_index_memory.md R150). -/
def Obligations.LdISetsTheIndex : Prop :=
  ∀ (nnn : Addr12) (s : State), (∀ o, decode o (BitVec.ofNat 16 (0xA000 + nnn.toNat)) = some (.ldI nnn)) ∧
    ∃ t, exec (.ldI nnn) s = .next t ∧ t.pc = s.pc + 2 ∧
    t.i.toNat = nnn.toNat ∧ Frame { i := True } s t

/-- FX1E adds V[X] to `I` modulo 2^16 and writes no flag (45_index_memory.md R151, from general knowledge by the spec's
decisions D1 and D18). -/
def Obligations.AddIWrapsWithoutAFlag : Prop :=
  ∀ (x : Reg) (s : State), ∃ t, exec (.addIVx x) s = .next t ∧ t.pc = s.pc + 2 ∧
    t.i.toNat = (s.i.toNat + (s.getV x).toNat) % 65536 ∧ Frame { i := True } s t

/-- FX29 puts the address of a digit's glyph in `I`; a V[X] above 15 faults with that value (45_index_memory.md R152,
60_exceptions.md R181, from general knowledge by the spec's decisions D1 and D19). -/
def Obligations.LdFPointsAtTheGlyph : Prop :=
  ∀ (x : Reg) (s : State),
    ((s.getV x).toNat ≤ 15 → ∃ t, exec (.ldFVx x) s = .next t ∧ t.pc = s.pc + 2 ∧
      t.i.toNat = 5 * (s.getV x).toNat ∧ Frame { i := True } s t) ∧
    (15 < (s.getV x).toNat →
      exec (.ldFVx x) s = .next (s.faulted (.ldFVx x) .fontDigitOutOfRange (some (s.getV x).toNat)))

/-- FX33 stores the hundreds, tens and ones of V[X] at `I`, `I + 1`, `I + 2`, and no other byte changes; a store that would
pass the end of memory faults with the lowest bad address and writes nothing (45_index_memory.md R153, from general knowledge
by the spec's decisions D1 and D20; the bound is D4). Memory is in its canonical form, as in every reachable state. -/
def Obligations.BcdStoresThreeDigits : Prop :=
  ∀ (x : Reg) (s : State), Memory.wf s.params.font s.mem = true →
    (s.dataAddr + 2 < 4096 → ∃ t, exec (.ldBVx x) s = .next t ∧ t.pc = s.pc + 2 ∧
      (t.readByte s.dataAddr).toNat = (s.getV x).toNat / 100 ∧
      (t.readByte (s.dataAddr + 1)).toNat = (s.getV x).toNat / 10 % 10 ∧
      (t.readByte (s.dataAddr + 2)).toNat = (s.getV x).toNat % 10 ∧
      Frame { mem := fun a => s.dataAddr ≤ a ∧ a ≤ s.dataAddr + 2 } s t) ∧
    (4096 ≤ s.dataAddr + 2 →
      exec (.ldBVx x) s = .next (s.faulted (.ldBVx x) .memoryOutOfBounds (some (max s.dataAddr 4096))))

/-- FX55 stores V[0]..V[X] at `I`..`I + X`, and no other byte changes; `I` moves past them only if LDST_INCREMENTS_I; a store
that would pass the end of memory faults and writes nothing (45_index_memory.md R154, from general knowledge by the spec's
decisions D1 and D17; the bound is D4). -/
def Obligations.StoreRegistersAtI : Prop :=
  ∀ (x : Reg) (s : State), Memory.wf s.params.font s.mem = true →
    (s.dataAddr + x.val < 4096 → ∃ t, exec (.ldMemVx x) s = .next t ∧ t.pc = s.pc + 2 ∧
      (∀ q : Reg, q ≤ x → t.readByte (s.dataAddr + q.val) = s.getV q) ∧
      (s.params.ldstIncrementsI = true → t.i.toNat = (s.dataAddr + x.val + 1) % 65536) ∧
      Frame { mem := fun a => s.dataAddr ≤ a ∧ a ≤ s.dataAddr + x.val,
              i := s.params.ldstIncrementsI = true } s t) ∧
    (4096 ≤ s.dataAddr + x.val →
      exec (.ldMemVx x) s
        = .next (s.faulted (.ldMemVx x) .memoryOutOfBounds (some (max s.dataAddr 4096))))

/-- FX65 loads V[0]..V[X] from `I`..`I + X`, VF too when X = 15, and no other register or byte changes; `I` moves past them
only if LDST_INCREMENTS_I; a load that would pass the end of memory faults and loads nothing (45_index_memory.md R155, from
general knowledge by the spec's decisions D1 and D17; the bound is D4). -/
def Obligations.LoadRegistersFromI : Prop :=
  ∀ (x : Reg) (s : State),
    (s.dataAddr + x.val < 4096 → ∃ t, exec (.ldVxMem x) s = .next t ∧ t.pc = s.pc + 2 ∧
      (∀ q : Reg, q ≤ x → t.getV q = s.readByte (s.dataAddr + q.val)) ∧
      (s.params.ldstIncrementsI = true → t.i.toNat = (s.dataAddr + x.val + 1) % 65536) ∧
      Frame { v := fun q => q ≤ x, i := s.params.ldstIncrementsI = true } s t) ∧
    (4096 ≤ s.dataAddr + x.val →
      exec (.ldVxMem x) s
        = .next (s.faulted (.ldVxMem x) .memoryOutOfBounds (some (max s.dataAddr 4096))))

/-- What FX55 stored, FX65 loads back from the same `I`, whatever registers come between and whether or not the two move `I`
(derived from 45_index_memory.md R154, R155 and 20_memory.md R58). Both exist only when OPSET = Canonical and are from
general knowledge, as is LDST_INCREMENTS_I, of which every value is covered (the spec's decisions D1 and D17; log 10). -/
def Obligations.StoredRegistersLoadBack : Prop :=
  ∀ (x : Reg) (s : State) (v : Vector Byte 16), Memory.wf s.params.font s.mem = true →
    s.dataAddr + x.val < 4096 →
    ∃ t u, exec (.ldMemVx x) s = .next t ∧ exec (.ldVxMem x) { t with v := v, i := s.i } = .next u ∧
      ∀ q : Reg, q ≤ x → u.getV q = s.getV q

/-- What FX33, FX55 or a program load writes is what the very next step fetches, with no barrier: each byte of the next word is
the written one where the write reaches it and the byte of before elsewhere, so a write of one of the two bytes is covered, and
one that makes an unknown opcode (20_memory.md R64, 70_reset_and_hazards.md R213, derived by the spec from R57 and R61; its
decision D25). FX33 and FX55 exist only when OPSET = Canonical and are from general knowledge (D1, D20, D17; log 10). -/
def Obligations.StoredBytesAreFetchedNext : Prop :=
  ∀ s : State, Memory.wf s.params.font s.mem = true → s.fault = none →
    let next := (s.pc + 2).toNat
    (∀ x : Reg, s.dataAddr + 2 < 4096 → next + 1 < 4096 →
      let v := (s.getV x).toNat
      let written := s.byteUnder s.dataAddr
        [BitVec.ofNat 8 (v / 100), BitVec.ofNat 8 (v / 10 % 10), BitVec.ofNat 8 (v % 10)]
      ∃ t, exec (.ldBVx x) s = .next t ∧ t.StepsOn (written next ++ written (next + 1))) ∧
    (∀ x : Reg, s.dataAddr + x.val < 4096 → next + 1 < 4096 →
      let written := s.byteUnder s.dataAddr (List.ofFn fun k : Fin (x.val + 1) => s.getV ⟨k.val, by omega⟩)
      ∃ t, exec (.ldMemVx x) s = .next t ∧ t.StepsOn (written next ++ written (next + 1))) ∧
    (∀ bytes : List Byte, bytes.length ≤ 3584 → s.pc.toNat + 1 < 4096 →
      let written := s.byteUnder 0x200 bytes
      ∃ t, hostOp (.load bytes) s = .next (t, .ok) ∧
        t.StepsOn (written s.pc.toNat ++ written (s.pc.toNat + 1)))

/-- Two memories in canonical form that read alike at every address are the same list (the model's representation, log 5). -/
def Obligations.MemoriesThatReadAlikeAreEqual : Prop :=
  ∀ (font : Font) (m m' : Memory), Memory.wf font m = true → Memory.wf font m' = true →
    (∀ a, Memory.read font m a = Memory.read font m' a) → m = m'

/-! ## Timers and keypad -/

/-- FX07 reads DT into V[X]; FX15 and FX18 write V[X] to DT and ST; nothing else changes (46_timers_keypad.md R160, R162,
R163, from general knowledge by the spec's decision D1). -/
def Obligations.TimerMoves : Prop :=
  ∀ (x : Reg) (s : State),
    (∃ t, exec (.ldVxDt x) s = .next t ∧ t.pc = s.pc + 2 ∧ t.getV x = s.dt ∧
      Frame { v := fun r => r = x } s t) ∧
    (∃ t, exec (.ldDtVx x) s = .next t ∧ t.pc = s.pc + 2 ∧ t.dt = s.getV x ∧ Frame { dt := True } s t) ∧
    (∃ t, exec (.ldStVx x) s = .next t ∧ t.pc = s.pc + 2 ∧ t.st = s.getV x ∧ Frame { st := True } s t)

/-- FX0A under Press: the least key down goes to V[X]; with no key down the state is as before the step, so the same word
runs again (46_timers_keypad.md R161, from general knowledge by the spec's decisions D1 and D16). -/
def Obligations.KeyWaitOnPress : Prop :=
  ∀ (x : Reg) (s : State), s.params.keywait = .press →
    (∀ k : Reg, s.key[k] = true → (∀ j : Reg, j < k → s.key[j] = false) →
      ∃ t, exec (.ldVxK x) s = .next t ∧ t.pc = s.pc + 2 ∧ (t.getV x).toNat = k.val ∧
        Frame { v := fun r => r = x } s t) ∧
    ((∀ k : Reg, s.key[k] = false) → exec (.ldVxK x) s = .next s)

/-- FX0A under PressRelease: the least key down is latched and the word runs again until that key is up, when its index goes
to V[X] and the latch clears (46_timers_keypad.md R161, from general knowledge by the spec's decisions D1 and D16). -/
def Obligations.KeyWaitOnPressAndRelease : Prop :=
  ∀ (x : Reg) (s : State), s.params.keywait = .pressRelease →
    (s.kwait = none → ∀ k : Reg, s.key[k] = true → (∀ j : Reg, j < k → s.key[j] = false) →
      ∃ t, exec (.ldVxK x) s = .next t ∧ t.pc = s.pc ∧ t.kwait = some k ∧ Frame { kwait := True } s t) ∧
    (s.kwait = none → (∀ k : Reg, s.key[k] = false) → exec (.ldVxK x) s = .next s) ∧
    (∀ k : Reg, s.kwait = some k → s.key[k] = true → exec (.ldVxK x) s = .next s) ∧
    (∀ k : Reg, s.kwait = some k → s.key[k] = false →
      ∃ t, exec (.ldVxK x) s = .next t ∧ t.pc = s.pc + 2 ∧ (t.getV x).toNat = k.val ∧ t.kwait = none ∧
        Frame { v := fun r => r = x, kwait := True } s t)

/-! ## The host's operations -/

/-- One timer tick: each timer goes down by one when it is not 0, the answer says whether ST was 1, and nothing else changes
(60_exceptions.md R185). -/
def Obligations.TickCountsBothTimersDown : Prop :=
  ∀ s : State, ∃ t, hostOp .tickTimers s = .next (t, .soundBoundary (decide (s.st.toNat = 1))) ∧
    t.dt.toNat = s.dt.toNat - 1 ∧ t.st.toNat = s.st.toNat - 1 ∧ t.pc = s.pc ∧
    Frame { dt := True, st := True } s t

/-- Over any number of ticks both timers count down to 0 and stay there, and exactly the tick numbered ST signals the sound
boundary, so no tick does when ST is 0 (60_exceptions.md R185, R186; that nothing records the signal is the spec's
decision D32). -/
def Obligations.OnlyTheTickNumberedStSignals : Prop :=
  ∀ (n : Nat) (s : State),
    (s.ticks n).dt.toNat = s.dt.toNat - n ∧ (s.ticks n).st.toNat = s.st.toNat - n ∧
    hostOp .tickTimers (s.ticks n) = .next (s.ticks (n + 1), .soundBoundary (decide (s.st.toNat = n + 1)))

/-- reset, in place or as construct, sets every piece of state, a latched fault and a key wait in progress included, to its reset
value (70_reset_and_hazards.md R200), the font region to the FONT the implementation has. -/
def Obligations.ResetSetsTheWholeState : Prop :=
  ∀ (s : State) (o : HostOp), o = .reset ∨ o = .construct →
    ∃ t, hostOp o s = .next (t, .done) ∧ (∀ r, t.getV r = 0) ∧ t.i = 0 ∧ t.sp = 0 ∧
      (∀ (k : Nat) (h : k < 16), t.stack[k] = 0) ∧ t.dt = 0 ∧ t.st = 0 ∧
      (∀ (d : Fin 16) (k : Fin 5), t.readByte (5 * d.val + k.val) = s.params.font[d][k]) ∧
      (∀ a, 80 ≤ a → a < 4096 → t.readByte a = 0) ∧
      (∀ x y, Framebuffer.get t.fb x y = false) ∧ (∀ k : Reg, t.key[k] = false) ∧
      t.fault = none ∧ t.kwait = none ∧ t.pc.toNat = 0x200

/-- load writes the bytes from 0x200 on and nothing else; more than 3584 bytes are refused and nothing is written
(60_exceptions.md R193; the spec's decision D23). -/
def Obligations.LoadWritesTheProgram : Prop :=
  ∀ (s : State) (bytes : List Byte), Memory.wf s.params.font s.mem = true →
    (bytes.length ≤ 3584 → ∃ t, hostOp (.load bytes) s = .next (t, .ok) ∧ t.pc = s.pc ∧
      (∀ (k : Nat) (h : k < bytes.length), t.readByte (0x200 + k) = bytes[k]) ∧
      Frame { mem := fun a => 0x200 ≤ a ∧ a < 0x200 + bytes.length } s t) ∧
    (3584 < bytes.length → hostOp (.load bytes) s = .next (s, .loadTooLarge))

/-- set_key sets one flag and nothing else, and refuses an index of 16 or more (60_exceptions.md R195; the spec's decision
D31). -/
def Obligations.SetKeySetsOneFlag : Prop :=
  ∀ (s : State) (k : Nat) (down : Bool),
    (∀ h : k < 16, ∃ t, hostOp (.setKey k down) s = .next (t, .ok) ∧ t.key[k] = down ∧
      (∀ (j : Nat) (hj : j < 16), j ≠ k → t.key[j] = s.key[j]) ∧ t = { s with key := t.key }) ∧
    (16 ≤ k → hostOp (.setKey k down) s = .next (s, .keyIndexInvalid))

/-- read_framebuffer returns every cell and changes nothing (60_exceptions.md R194). -/
def Obligations.ReadFramebufferReturnsEveryCell : Prop :=
  ∀ s : State, ∃ cells : Framebuffer, hostOp .readFramebuffer s = .next (s, .cells cells) ∧
    ∀ x y, Framebuffer.get cells x y = Framebuffer.get s.fb x y

/-! ## Whole runs -/

/-- Every step of a finished run changes nothing, for any number of steps with no operation of the host between them (log 7);
and the host's own operations other than construct, reset and load, which may change the timers and the keypad, leave it
finished at the same `pc` (60_exceptions.md R199, 70_reset_and_hazards.md R210; the definition of finished is the spec's
decision D33). -/
def Obligations.FinishedRunStaysFinished : Prop :=
  ∀ s : State, s.finished →
    (∀ k, Host.Core.run core k s = .next s) ∧
    ∀ o, o ≠ .construct → o ≠ .reset → (∀ bytes, o ≠ .load bytes) →
      ∃ t reply, hostOp o s = .next (t, reply) ∧ t.finished ∧ t.pc = s.pc

/-- With nothing loaded, on an implementation with any parameters, `k` steps run `k` no-ops as long as `pc` does not pass
0x1000, and the 1793rd latches the fetch fault there (70_reset_and_hazards.md R203, which the spec derives from R38, R110 and
R56; the host does nothing between the steps, log 7). -/
def Obligations.EmptyMemoryRunsIntoAFetchFault : Prop :=
  ∀ (p : Params) (n : Nat),
    (∀ k ≤ 1792, Host.Core.run core k (State.construct p n)
      = .next ((State.construct p n).setPc (BitVec.ofNat 16 (0x200 + 2 * k)))) ∧
    Host.Core.run core 1793 (State.construct p n)
      = .next (((State.construct p n).setPc 0x1000).latch .memoryOutOfBounds none (some 0x1000))
end

