-- ==== Sys2Proof/Laws/Decode.lean ====
section
/-! SUPPORT. The fields and fixed bits of each format, and that no two rows of the dispatch table share a word
(30_encoding.md R71, R72, R74). -/

namespace Sys2Proof

variable (a : Nibble) (x y : Reg) (n : Nibble) (nn : Byte) (nnn : Addr12)

/-! ### Words as numbers -/

/-- Concatenation as arithmetic. -/
theorem toNat_append_eq {v w : Nat} (p : BitVec v) (q : BitVec w) :
    (p ++ q).toNat = p.toNat * 2 ^ w + q.toNat := by
  rw [BitVec.toNat_append, ← Nat.shiftLeft_add_eq_or_of_lt q.isLt, Nat.shiftLeft_eq]

@[simp] theorem regField_toNat : (regField x).toNat = x.val := rfl

theorem formNNN_toNat : (formNNN a nnn).toNat = a.toNat * 4096 + nnn.toNat :=
  toNat_append_eq a nnn

theorem formXNN_toNat : (formXNN a x nn).toNat = a.toNat * 4096 + x.val * 256 + nn.toNat := by
  have h : (formXNN a x nn).toNat = (a ++ regField x ++ nn).toNat := rfl
  rw [h, toNat_append_eq, toNat_append_eq, regField_toNat]
  omega

theorem formXYN_toNat :
    (formXYN a x y n).toNat = a.toNat * 4096 + x.val * 256 + y.val * 16 + n.toNat := by
  have h : (formXYN a x y n).toNat = (a ++ regField x ++ regField y ++ n).toNat := rfl
  rw [h, toNat_append_eq, toNat_append_eq, toNat_append_eq, regField_toNat, regField_toNat]
  omega

theorem fieldX_val (w : Word) : (fieldX w).val = w.toNat / 256 % 16 := by
  have h : (fieldX w).val = (w.extractLsb' 8 4).toNat := rfl
  rw [h, BitVec.extractLsb'_toNat, Nat.shiftRight_eq_div_pow]

theorem fieldY_val (w : Word) : (fieldY w).val = w.toNat / 16 % 16 := by
  have h : (fieldY w).val = (w.extractLsb' 4 4).toNat := rfl
  rw [h, BitVec.extractLsb'_toNat, Nat.shiftRight_eq_div_pow]

theorem fieldN_toNat (w : Word) : (fieldN w).toNat = w.toNat % 16 := by
  rw [fieldN, BitVec.extractLsb'_toNat, Nat.shiftRight_zero]

theorem fieldNN_toNat (w : Word) : (fieldNN w).toNat = w.toNat % 256 := by
  rw [fieldNN, BitVec.extractLsb'_toNat, Nat.shiftRight_zero]

theorem fieldNNN_toNat (w : Word) : (fieldNNN w).toNat = w.toNat % 4096 := by
  rw [fieldNNN, BitVec.extractLsb'_toNat, Nat.shiftRight_zero]

/-! ### The operand fields of a word of each format -/

@[simp] theorem fieldNNN_formNNN : fieldNNN (formNNN a nnn) = nnn := by
  apply BitVec.eq_of_toNat_eq
  have := nnn.isLt
  rw [fieldNNN_toNat, formNNN_toNat]
  omega

@[simp] theorem fieldX_formXNN : fieldX (formXNN a x nn) = x := by
  apply Fin.ext
  have := nn.isLt
  rw [fieldX_val, formXNN_toNat]
  omega

@[simp] theorem fieldNN_formXNN : fieldNN (formXNN a x nn) = nn := by
  apply BitVec.eq_of_toNat_eq
  have := nn.isLt
  rw [fieldNN_toNat, formXNN_toNat]
  omega

@[simp] theorem fieldX_formXYN : fieldX (formXYN a x y n) = x := by
  apply Fin.ext
  have := n.isLt
  rw [fieldX_val, formXYN_toNat]
  omega

@[simp] theorem fieldY_formXYN : fieldY (formXYN a x y n) = y := by
  apply Fin.ext
  have := n.isLt
  rw [fieldY_val, formXYN_toNat]
  omega

@[simp] theorem fieldN_formXYN : fieldN (formXYN a x y n) = n := by
  apply BitVec.eq_of_toNat_eq
  have := n.isLt
  rw [fieldN_toNat, formXYN_toNat]
  omega

/-- Every word is four nibbles (R70). -/
theorem eq_formXYN (w : Word) : ∃ a x y n, w = formXYN a x y n := by
  refine ⟨w.extractLsb' 12 4, fieldX w, fieldY w, fieldN w, BitVec.eq_of_toNat_eq ?_⟩
  have := w.isLt
  rw [formXYN_toNat, fieldX_val, fieldY_val, fieldN_toNat, BitVec.extractLsb'_toNat,
    Nat.shiftRight_eq_div_pow]
  omega

/-! ### The fixed bits of a word of each format -/

theorem and_ones4 (p : Nibble) : p &&& 0xF#4 = p := BitVec.and_allOnes

theorem and_ones8 (p : Byte) : p &&& 0xFF#8 = p := BitVec.and_allOnes

@[simp] theorem formNNN_and_F000 : formNNN a nnn &&& 0xF000#16 = formNNN a 0 := by
  show (a ++ nnn) &&& (0xF#4 ++ 0#12) = a ++ 0#12
  rw [BitVec.and_append, and_ones4, BitVec.and_zero]

@[simp] theorem formXNN_and_F000 : formXNN a x nn &&& 0xF000#16 = formXNN a 0 0 := by
  show (a ++ regField x ++ nn) &&& (0xF#4 ++ 0#4 ++ 0#8) = a ++ 0#4 ++ 0#8
  rw [BitVec.and_append, BitVec.and_append, and_ones4, BitVec.and_zero, BitVec.and_zero]

@[simp] theorem formXNN_and_F0FF : formXNN a x nn &&& 0xF0FF#16 = formXNN a 0 nn := by
  show (a ++ regField x ++ nn) &&& (0xF#4 ++ 0#4 ++ 0xFF#8) = a ++ 0#4 ++ nn
  rw [BitVec.and_append, BitVec.and_append, and_ones4, BitVec.and_zero, and_ones8]

@[simp] theorem formXYN_and_F000 : formXYN a x y n &&& 0xF000#16 = formXYN a 0 0 0 := by
  show (a ++ regField x ++ regField y ++ n) &&& (0xF#4 ++ 0#4 ++ 0#4 ++ 0#4) = a ++ 0#4 ++ 0#4 ++ 0#4
  rw [BitVec.and_append, BitVec.and_append, BitVec.and_append, and_ones4, BitVec.and_zero,
    BitVec.and_zero, BitVec.and_zero]

@[simp] theorem formXYN_and_F00F : formXYN a x y n &&& 0xF00F#16 = formXYN a 0 0 n := by
  show (a ++ regField x ++ regField y ++ n) &&& (0xF#4 ++ 0#4 ++ 0#4 ++ 0xF#4) = a ++ 0#4 ++ 0#4 ++ n
  rw [BitVec.and_append, BitVec.and_append, BitVec.and_append, and_ones4, and_ones4, BitVec.and_zero,
    BitVec.and_zero]

@[simp] theorem formXYN_and_F0FF : formXYN a x y n &&& 0xF0FF#16 = formXYN a 0 y n := by
  show (a ++ regField x ++ regField y ++ n) &&& (0xF#4 ++ 0#4 ++ 0xF#4 ++ 0xF#4) = a ++ 0#4 ++ regField y ++ n
  rw [BitVec.and_append, BitVec.and_append, BitVec.and_append, and_ones4, and_ones4, and_ones4,
    BitVec.and_zero]

/-! ### The dispatch table -/

/-- Two rows whose patterns differ in a bit both masks fix. -/
def Row.apart (r q : Row) : Bool := r.pattern &&& q.mask ≠ q.pattern &&& r.mask

/-- A word selects at most one of two rows that are apart. -/
theorem Row.not_both {o : Opset} {w : Word} {r q : Row} (h : r.apart q = true)
    (hr : r.selects o w = true) : q.selects o w = false := by
  simp only [Row.selects, Bool.and_eq_true, decide_eq_true_eq, Row.apart] at hr h
  simp only [Row.selects, Bool.and_eq_false_iff, decide_eq_false_iff_not]
  refine .inr fun e => h ?_
  rw [← hr.2, ← e, BitVec.and_assoc, BitVec.and_assoc, BitVec.and_comm r.mask]

/-- Every row of R75 is apart from every later one. -/
theorem dispatchTable_apart : dispatchTable.Pairwise fun r q => r.apart q = true := by decide

/-- The row that a word selects is the one dispatch finds, wherever it stands in a table of rows apart. -/
theorem find?_of_apart {o : Opset} {w : Word} {r : Row} : ∀ {rs : List Row},
    (rs.Pairwise fun r q => r.apart q = true) → r ∈ rs → r.selects o w = true →
    rs.find? (Row.selects o w) = some r
  | q :: rs, hp, hm, hs => by
    obtain ⟨hq, hp⟩ := List.pairwise_cons.1 hp
    rcases List.mem_cons.1 hm with rfl | hm
    · exact List.find?_cons_of_pos hs
    · have : ¬ q.selects o w = true := fun h => by
        rw [Row.not_both (hq r hm) h] at hs; exact Bool.noConfusion hs
      rw [List.find?_cons_of_neg this]
      exact find?_of_apart hp hm hs

/-- A word that selects a row decodes by it (R76). -/
theorem decode_of_selects {o : Opset} {w : Word} {r : Row} (hm : r ∈ dispatchTable)
    (hs : r.selects o w = true) : decode o w = some (r.build w) := by
  rw [decode, find?_of_apart dispatchTable_apart hm hs]; rfl

end Sys2Proof
end

