-- ==== Sys2Proof/Laws/Memory.lean ====
section
/-! SUPPORT. What memory's operations do: a read after a write, the other addresses, and the canonical form, which
every operation keeps (20_memory.md R52, R58, R61). -/

namespace Sys2Proof.Machine

variable {font : Font} {m : Memory} {a a' : Nat} {b : Byte}

/-- The canonical form as two plain facts. -/
theorem Memory.wf_iff : Memory.wf font m = true ↔
    (m.Pairwise fun c d => c.1 < d.1) ∧
      ∀ c ∈ m, c.1 < Config.memSize ∧ c.2 ≠ resetByte font c.1 := by
  simp [Memory.wf]

theorem Memory.wf_nil : Memory.wf font [] = true := by simp [Memory.wf_iff]

/-- A read of an address below every listed one gives the reset content. -/
theorem Memory.read_of_lt : ∀ {m : Memory}, (∀ c ∈ m, a < c.1) → Memory.read font m a = resetByte font a
  | [], _ => rfl
  | c :: m, h => by
    have hc := h c (by simp)
    have hm : ∀ d ∈ m, a < d.1 := fun d hd => h d (by simp [hd])
    simp [Memory.read, Memory.read_of_lt hm, Nat.ne_of_gt hc]

/-- Every cell of a memory after a write is the written one or one of before. -/
theorem Memory.mem_write {c : Host.Cell} :
    ∀ {m : Memory}, c ∈ Memory.write font m a b → c = (a, b) ∧ b ≠ resetByte font a ∨ c ∈ m
  | [], h => by
    unfold Memory.write at h
    split at h
    · simp at h
    · exact .inl ⟨by simpa using h, ‹_›⟩
  | d :: m, h => by
    unfold Memory.write at h
    split at h
    · split at h
      · exact .inr h
      · rcases List.mem_cons.1 h with h | h
        · exact .inl ⟨h, ‹_›⟩
        · exact .inr h
    · split at h
      · split at h
        · exact .inr (List.mem_cons_of_mem _ h)
        · rcases List.mem_cons.1 h with h | h
          · exact .inl ⟨h, ‹_›⟩
          · exact .inr (List.mem_cons_of_mem _ h)
      · rcases List.mem_cons.1 h with h | h
        · exact .inr (by simp [h])
        · rcases Memory.mem_write h with h | h
          · exact .inl h
          · exact .inr (List.mem_cons_of_mem _ h)

theorem Memory.pairwise_write : ∀ {m : Memory}, (m.Pairwise fun c d => c.1 < d.1) →
    (Memory.write font m a b).Pairwise fun c d => c.1 < d.1
  | [], _ => by unfold Memory.write; split <;> simp
  | d :: m, h => by
    obtain ⟨hd, hm⟩ := List.pairwise_cons.1 h
    unfold Memory.write
    split
    · rename_i had
      split
      · exact h
      · refine List.pairwise_cons.2 ⟨fun c hc => ?_, h⟩
        rcases List.mem_cons.1 hc with rfl | hc
        · exact had
        · exact Nat.lt_trans had (hd c hc)
    · split
      · rename_i had
        split
        · exact hm
        · exact List.pairwise_cons.2 ⟨fun c hc => by rw [had]; exact hd c hc, hm⟩
      · refine List.pairwise_cons.2 ⟨fun c hc => ?_, Memory.pairwise_write hm⟩
        rcases Memory.mem_write hc with ⟨rfl, -⟩ | hc
        · show d.1 < a
          omega
        · exact hd c hc

/-- A write in bounds keeps the canonical form. -/
theorem Memory.wf_write (h : Memory.wf font m = true) (ha : a < Config.memSize) :
    Memory.wf font (Memory.write font m a b) = true := by
  rw [Memory.wf_iff] at h ⊢
  refine ⟨Memory.pairwise_write h.1, fun c hc => ?_⟩
  rcases Memory.mem_write hc with ⟨rfl, hb⟩ | hc
  · exact ⟨ha, hb⟩
  · exact h.2 c hc

/-- A write in bounds of a whole list keeps the canonical form. -/
theorem Memory.wf_writeBytes : ∀ {bs : List Byte} {m : Memory} {a : Nat}, Memory.wf font m = true →
    a + bs.length ≤ Config.memSize → Memory.wf font (Memory.writeBytes font m a bs) = true
  | [], _, _, h, _ => h
  | b :: bs, m, a, h, hl => by
    simp only [List.length_cons] at hl
    have hw : Memory.wf font (Memory.write font m a b) = true := Memory.wf_write h (by omega)
    exact Memory.wf_writeBytes (m := Memory.write font m a b) hw (by omega)

/-- A read after a write, over rising addresses: the byte written at that address, the byte of before elsewhere. -/
theorem Memory.read_write : ∀ {m : Memory}, (m.Pairwise fun c d => c.1 < d.1) →
    Memory.read font (Memory.write font m a b) a' = if a' = a then b else Memory.read font m a'
  | [], _ => by
    unfold Memory.write
    split
    · rename_i hb
      split
      · rename_i h; simp [Memory.read, h, hb]
      · rfl
    · simp [Memory.read, eq_comm]
  | d :: m, h => by
    obtain ⟨hd, hm⟩ := List.pairwise_cons.1 h
    unfold Memory.write
    split
    · rename_i had
      have hlt : ∀ c ∈ d :: m, a < c.1 := fun c hc => by
        rcases List.mem_cons.1 hc with rfl | hc
        · exact had
        · exact Nat.lt_trans had (hd c hc)
      split
      · rename_i hb
        split
        · rename_i h; rw [h, Memory.read_of_lt hlt, hb]
        · rfl
      · simp only [Memory.read, eq_comm]
    · split
      · rename_i had
        split
        · rename_i hb
          split
          · rename_i h
            rw [h, Memory.read_of_lt (fun c hc => by rw [had]; exact hd c hc), hb]
          · rename_i h
            have : d.1 ≠ a' := by omega
            simp [Memory.read, this]
        · by_cases h : a' = a
          · simp [Memory.read, h]
          · have h1 : d.1 ≠ a' := by omega
            have h2 : a ≠ a' := by omega
            simp [Memory.read, h, h1, h2]
      · simp only [Memory.read, Memory.read_write hm]
        by_cases h : d.1 = a'
        · have h1 : a' ≠ a := by omega
          simp [h, h1]
        · simp [h]

/-- A read after writing a list of bytes at `a`. -/
theorem Memory.read_writeBytes : ∀ {bs : List Byte} {m : Memory} {a : Nat}, (m.Pairwise fun c d => c.1 < d.1) →
    Memory.read font (Memory.writeBytes font m a bs) a'
      = if h : a ≤ a' ∧ a' - a < bs.length then bs[a' - a] else Memory.read font m a'
  | [], m, a, _ => by simp [Memory.writeBytes]
  | b :: bs, m, a, h => by
    rw [Memory.writeBytes, Memory.read_writeBytes (Memory.pairwise_write h), Memory.read_write h]
    by_cases h1 : a' = a
    · subst h1
      have : ¬ (a' + 1 ≤ a' ∧ a' - (a' + 1) < bs.length) := by omega
      simp
    · by_cases h2 : a + 1 ≤ a' ∧ a' - (a + 1) < bs.length
      · have h3 : a ≤ a' ∧ a' - a < (b :: bs).length := by simp only [List.length_cons]; omega
        have h4 : a' - a = (a' - (a + 1)) + 1 := by omega
        refine (dif_pos h2).trans (Eq.trans ?_ (dif_pos h3).symm)
        simp only [h4, List.getElem_cons_succ]
      · have h3 : ¬ (a ≤ a' ∧ a' - a < (b :: bs).length) := by simp only [List.length_cons]; omega
        rw [dif_neg h2, if_neg h1, dif_neg h3]

/-- Nothing lies below a bound: the access list has no bad address exactly when it ends in bounds (R52). -/
theorem lowestBad_eq_none_iff {base len : Nat} :
    lowestBad base len = none ↔ len = 0 ∨ base + len ≤ Config.memSize := by
  simp only [lowestBad, accessList, List.find?_eq_none, List.mem_map, List.mem_range, decide_eq_true_eq,
    forall_exists_index, and_imp, forall_apply_eq_imp_iff₂]
  constructor
  · intro h
    by_cases h0 : len = 0
    · exact .inl h0
    · have := h (len - 1) (by omega)
      exact .inr (by omega)
  · rintro h k hk
    omega

/-- The lowest bad address of an access list that has one is its base or `MEM_SIZE`, whichever is higher (R52). -/
theorem lowestBad_eq_some_iff {base len a : Nat} :
    lowestBad base len = some a ↔ a = max base Config.memSize ∧ a < base + len := by
  constructor
  · intro h
    simp only [lowestBad, accessList, List.find?_map, Option.map_eq_some_iff] at h
    obtain ⟨k, hk, rfl⟩ := h
    rw [List.find?_range_eq_some] at hk
    simp only [Function.comp, decide_eq_true_eq, List.mem_range, Bool.not_eq_eq_eq_not, Bool.not_true,
      decide_eq_false_iff_not] at hk
    obtain ⟨h1, h2, h3⟩ := hk
    refine ⟨?_, by omega⟩
    by_cases h0 : k = 0
    · subst h0; omega
    · have := h3 (k - 1) (by omega)
      omega
  · rintro ⟨rfl, h⟩
    cases hb : lowestBad base len with
    | none => rw [lowestBad_eq_none_iff] at hb; omega
    | some c =>
      simp only [lowestBad, accessList, List.find?_map, Option.map_eq_some_iff] at hb
      obtain ⟨k, hk, rfl⟩ := hb
      rw [List.find?_range_eq_some] at hk
      simp only [Function.comp, decide_eq_true_eq, List.mem_range, Bool.not_eq_eq_eq_not, Bool.not_true,
        decide_eq_false_iff_not] at hk
      obtain ⟨h1, h2, h3⟩ := hk
      by_cases h0 : k = 0
      · subst h0; simp only [Option.some.injEq]; omega
      · have := h3 (k - 1) (by omega)
        simp only [Option.some.injEq]; omega

/-- The two cases of an access list, for a case split. -/
theorem lowestBad_cases (base len : Nat) :
    (lowestBad base len = none ∧ (len = 0 ∨ base + len ≤ Config.memSize)) ∨
      (lowestBad base len = some (max base Config.memSize) ∧ max base Config.memSize < base + len) := by
  cases h : lowestBad base len with
  | none => exact .inl ⟨rfl, lowestBad_eq_none_iff.1 h⟩
  | some a =>
    obtain ⟨rfl, h2⟩ := lowestBad_eq_some_iff.1 h
    exact .inr ⟨rfl, h2⟩

end Sys2Proof.Machine
end

