-- ==== Sys2Proof/Laws/State.lean ====
section
/-! SUPPORT. What each update leaves in each field of State: one lemma per field per update, all by `rfl`
(the two conditional updates by their two cases). -/

namespace Sys2Proof.Machine

variable (s : State)

/-! `setV` -/

@[simp] theorem State.setV_v (r : Reg) (b : Byte) : (s.setV r b).v = s.v.set r b r.isLt := rfl
@[simp] theorem State.setV_pc (r : Reg) (b : Byte) : (s.setV r b).pc = s.pc := rfl
@[simp] theorem State.setV_i (r : Reg) (b : Byte) : (s.setV r b).i = s.i := rfl
@[simp] theorem State.setV_sp (r : Reg) (b : Byte) : (s.setV r b).sp = s.sp := rfl
@[simp] theorem State.setV_stack (r : Reg) (b : Byte) : (s.setV r b).stack = s.stack := rfl
@[simp] theorem State.setV_mem (r : Reg) (b : Byte) : (s.setV r b).mem = s.mem := rfl
@[simp] theorem State.setV_fb (r : Reg) (b : Byte) : (s.setV r b).fb = s.fb := rfl
@[simp] theorem State.setV_key (r : Reg) (b : Byte) : (s.setV r b).key = s.key := rfl
@[simp] theorem State.setV_dt (r : Reg) (b : Byte) : (s.setV r b).dt = s.dt := rfl
@[simp] theorem State.setV_st (r : Reg) (b : Byte) : (s.setV r b).st = s.st := rfl
@[simp] theorem State.setV_fault (r : Reg) (b : Byte) : (s.setV r b).fault = s.fault := rfl
@[simp] theorem State.setV_kwait (r : Reg) (b : Byte) : (s.setV r b).kwait = s.kwait := rfl
@[simp] theorem State.setV_params (r : Reg) (b : Byte) : (s.setV r b).params = s.params := rfl
@[simp] theorem State.setV_randomIn (r : Reg) (b : Byte) : (s.setV r b).randomIn = s.randomIn := rfl
@[simp] theorem State.setV_draws (r : Reg) (b : Byte) : (s.setV r b).draws = s.draws := rfl

/-! `setI` -/

@[simp] theorem State.setI_v (w : Word) : (s.setI w).v = s.v := rfl
@[simp] theorem State.setI_pc (w : Word) : (s.setI w).pc = s.pc := rfl
@[simp] theorem State.setI_i (w : Word) : (s.setI w).i = w := rfl
@[simp] theorem State.setI_sp (w : Word) : (s.setI w).sp = s.sp := rfl
@[simp] theorem State.setI_stack (w : Word) : (s.setI w).stack = s.stack := rfl
@[simp] theorem State.setI_mem (w : Word) : (s.setI w).mem = s.mem := rfl
@[simp] theorem State.setI_fb (w : Word) : (s.setI w).fb = s.fb := rfl
@[simp] theorem State.setI_key (w : Word) : (s.setI w).key = s.key := rfl
@[simp] theorem State.setI_dt (w : Word) : (s.setI w).dt = s.dt := rfl
@[simp] theorem State.setI_st (w : Word) : (s.setI w).st = s.st := rfl
@[simp] theorem State.setI_fault (w : Word) : (s.setI w).fault = s.fault := rfl
@[simp] theorem State.setI_kwait (w : Word) : (s.setI w).kwait = s.kwait := rfl
@[simp] theorem State.setI_params (w : Word) : (s.setI w).params = s.params := rfl
@[simp] theorem State.setI_randomIn (w : Word) : (s.setI w).randomIn = s.randomIn := rfl
@[simp] theorem State.setI_draws (w : Word) : (s.setI w).draws = s.draws := rfl

/-! `setPc` -/

@[simp] theorem State.setPc_v (w : Word) : (s.setPc w).v = s.v := rfl
@[simp] theorem State.setPc_pc (w : Word) : (s.setPc w).pc = w := rfl
@[simp] theorem State.setPc_i (w : Word) : (s.setPc w).i = s.i := rfl
@[simp] theorem State.setPc_sp (w : Word) : (s.setPc w).sp = s.sp := rfl
@[simp] theorem State.setPc_stack (w : Word) : (s.setPc w).stack = s.stack := rfl
@[simp] theorem State.setPc_mem (w : Word) : (s.setPc w).mem = s.mem := rfl
@[simp] theorem State.setPc_fb (w : Word) : (s.setPc w).fb = s.fb := rfl
@[simp] theorem State.setPc_key (w : Word) : (s.setPc w).key = s.key := rfl
@[simp] theorem State.setPc_dt (w : Word) : (s.setPc w).dt = s.dt := rfl
@[simp] theorem State.setPc_st (w : Word) : (s.setPc w).st = s.st := rfl
@[simp] theorem State.setPc_fault (w : Word) : (s.setPc w).fault = s.fault := rfl
@[simp] theorem State.setPc_kwait (w : Word) : (s.setPc w).kwait = s.kwait := rfl
@[simp] theorem State.setPc_params (w : Word) : (s.setPc w).params = s.params := rfl
@[simp] theorem State.setPc_randomIn (w : Word) : (s.setPc w).randomIn = s.randomIn := rfl
@[simp] theorem State.setPc_draws (w : Word) : (s.setPc w).draws = s.draws := rfl

/-! `setDt` -/

@[simp] theorem State.setDt_v (b : Byte) : (s.setDt b).v = s.v := rfl
@[simp] theorem State.setDt_pc (b : Byte) : (s.setDt b).pc = s.pc := rfl
@[simp] theorem State.setDt_i (b : Byte) : (s.setDt b).i = s.i := rfl
@[simp] theorem State.setDt_sp (b : Byte) : (s.setDt b).sp = s.sp := rfl
@[simp] theorem State.setDt_stack (b : Byte) : (s.setDt b).stack = s.stack := rfl
@[simp] theorem State.setDt_mem (b : Byte) : (s.setDt b).mem = s.mem := rfl
@[simp] theorem State.setDt_fb (b : Byte) : (s.setDt b).fb = s.fb := rfl
@[simp] theorem State.setDt_key (b : Byte) : (s.setDt b).key = s.key := rfl
@[simp] theorem State.setDt_dt (b : Byte) : (s.setDt b).dt = b := rfl
@[simp] theorem State.setDt_st (b : Byte) : (s.setDt b).st = s.st := rfl
@[simp] theorem State.setDt_fault (b : Byte) : (s.setDt b).fault = s.fault := rfl
@[simp] theorem State.setDt_kwait (b : Byte) : (s.setDt b).kwait = s.kwait := rfl
@[simp] theorem State.setDt_params (b : Byte) : (s.setDt b).params = s.params := rfl
@[simp] theorem State.setDt_randomIn (b : Byte) : (s.setDt b).randomIn = s.randomIn := rfl
@[simp] theorem State.setDt_draws (b : Byte) : (s.setDt b).draws = s.draws := rfl

/-! `setSt` -/

@[simp] theorem State.setSt_v (b : Byte) : (s.setSt b).v = s.v := rfl
@[simp] theorem State.setSt_pc (b : Byte) : (s.setSt b).pc = s.pc := rfl
@[simp] theorem State.setSt_i (b : Byte) : (s.setSt b).i = s.i := rfl
@[simp] theorem State.setSt_sp (b : Byte) : (s.setSt b).sp = s.sp := rfl
@[simp] theorem State.setSt_stack (b : Byte) : (s.setSt b).stack = s.stack := rfl
@[simp] theorem State.setSt_mem (b : Byte) : (s.setSt b).mem = s.mem := rfl
@[simp] theorem State.setSt_fb (b : Byte) : (s.setSt b).fb = s.fb := rfl
@[simp] theorem State.setSt_key (b : Byte) : (s.setSt b).key = s.key := rfl
@[simp] theorem State.setSt_dt (b : Byte) : (s.setSt b).dt = s.dt := rfl
@[simp] theorem State.setSt_st (b : Byte) : (s.setSt b).st = b := rfl
@[simp] theorem State.setSt_fault (b : Byte) : (s.setSt b).fault = s.fault := rfl
@[simp] theorem State.setSt_kwait (b : Byte) : (s.setSt b).kwait = s.kwait := rfl
@[simp] theorem State.setSt_params (b : Byte) : (s.setSt b).params = s.params := rfl
@[simp] theorem State.setSt_randomIn (b : Byte) : (s.setSt b).randomIn = s.randomIn := rfl
@[simp] theorem State.setSt_draws (b : Byte) : (s.setSt b).draws = s.draws := rfl

/-! `setKwait` -/

@[simp] theorem State.setKwait_v (k : Option Reg) : (s.setKwait k).v = s.v := rfl
@[simp] theorem State.setKwait_pc (k : Option Reg) : (s.setKwait k).pc = s.pc := rfl
@[simp] theorem State.setKwait_i (k : Option Reg) : (s.setKwait k).i = s.i := rfl
@[simp] theorem State.setKwait_sp (k : Option Reg) : (s.setKwait k).sp = s.sp := rfl
@[simp] theorem State.setKwait_stack (k : Option Reg) : (s.setKwait k).stack = s.stack := rfl
@[simp] theorem State.setKwait_mem (k : Option Reg) : (s.setKwait k).mem = s.mem := rfl
@[simp] theorem State.setKwait_fb (k : Option Reg) : (s.setKwait k).fb = s.fb := rfl
@[simp] theorem State.setKwait_key (k : Option Reg) : (s.setKwait k).key = s.key := rfl
@[simp] theorem State.setKwait_dt (k : Option Reg) : (s.setKwait k).dt = s.dt := rfl
@[simp] theorem State.setKwait_st (k : Option Reg) : (s.setKwait k).st = s.st := rfl
@[simp] theorem State.setKwait_fault (k : Option Reg) : (s.setKwait k).fault = s.fault := rfl
@[simp] theorem State.setKwait_kwait (k : Option Reg) : (s.setKwait k).kwait = k := rfl
@[simp] theorem State.setKwait_params (k : Option Reg) : (s.setKwait k).params = s.params := rfl
@[simp] theorem State.setKwait_randomIn (k : Option Reg) : (s.setKwait k).randomIn = s.randomIn := rfl
@[simp] theorem State.setKwait_draws (k : Option Reg) : (s.setKwait k).draws = s.draws := rfl

/-! `setFb` -/

@[simp] theorem State.setFb_v (f : Vector (Vector Bool 64) 32) : (s.setFb f).v = s.v := rfl
@[simp] theorem State.setFb_pc (f : Vector (Vector Bool 64) 32) : (s.setFb f).pc = s.pc := rfl
@[simp] theorem State.setFb_i (f : Vector (Vector Bool 64) 32) : (s.setFb f).i = s.i := rfl
@[simp] theorem State.setFb_sp (f : Vector (Vector Bool 64) 32) : (s.setFb f).sp = s.sp := rfl
@[simp] theorem State.setFb_stack (f : Vector (Vector Bool 64) 32) : (s.setFb f).stack = s.stack := rfl
@[simp] theorem State.setFb_mem (f : Vector (Vector Bool 64) 32) : (s.setFb f).mem = s.mem := rfl
@[simp] theorem State.setFb_fb (f : Vector (Vector Bool 64) 32) : (s.setFb f).fb = f := rfl
@[simp] theorem State.setFb_key (f : Vector (Vector Bool 64) 32) : (s.setFb f).key = s.key := rfl
@[simp] theorem State.setFb_dt (f : Vector (Vector Bool 64) 32) : (s.setFb f).dt = s.dt := rfl
@[simp] theorem State.setFb_st (f : Vector (Vector Bool 64) 32) : (s.setFb f).st = s.st := rfl
@[simp] theorem State.setFb_fault (f : Vector (Vector Bool 64) 32) : (s.setFb f).fault = s.fault := rfl
@[simp] theorem State.setFb_kwait (f : Vector (Vector Bool 64) 32) : (s.setFb f).kwait = s.kwait := rfl
@[simp] theorem State.setFb_params (f : Vector (Vector Bool 64) 32) : (s.setFb f).params = s.params := rfl
@[simp] theorem State.setFb_randomIn (f : Vector (Vector Bool 64) 32) : (s.setFb f).randomIn = s.randomIn := rfl
@[simp] theorem State.setFb_draws (f : Vector (Vector Bool 64) 32) : (s.setFb f).draws = s.draws := rfl

/-! `push` -/

@[simp] theorem State.push_v (w : Word) (h : s.sp.toNat < 16) : (s.push w h).v = s.v := rfl
@[simp] theorem State.push_pc (w : Word) (h : s.sp.toNat < 16) : (s.push w h).pc = s.pc := rfl
@[simp] theorem State.push_i (w : Word) (h : s.sp.toNat < 16) : (s.push w h).i = s.i := rfl
@[simp] theorem State.push_sp (w : Word) (h : s.sp.toNat < 16) : (s.push w h).sp = s.sp + 1 := rfl
@[simp] theorem State.push_stack (w : Word) (h : s.sp.toNat < 16) : (s.push w h).stack = s.stack.set s.sp.toNat w h := rfl
@[simp] theorem State.push_mem (w : Word) (h : s.sp.toNat < 16) : (s.push w h).mem = s.mem := rfl
@[simp] theorem State.push_fb (w : Word) (h : s.sp.toNat < 16) : (s.push w h).fb = s.fb := rfl
@[simp] theorem State.push_key (w : Word) (h : s.sp.toNat < 16) : (s.push w h).key = s.key := rfl
@[simp] theorem State.push_dt (w : Word) (h : s.sp.toNat < 16) : (s.push w h).dt = s.dt := rfl
@[simp] theorem State.push_st (w : Word) (h : s.sp.toNat < 16) : (s.push w h).st = s.st := rfl
@[simp] theorem State.push_fault (w : Word) (h : s.sp.toNat < 16) : (s.push w h).fault = s.fault := rfl
@[simp] theorem State.push_kwait (w : Word) (h : s.sp.toNat < 16) : (s.push w h).kwait = s.kwait := rfl
@[simp] theorem State.push_params (w : Word) (h : s.sp.toNat < 16) : (s.push w h).params = s.params := rfl
@[simp] theorem State.push_randomIn (w : Word) (h : s.sp.toNat < 16) : (s.push w h).randomIn = s.randomIn := rfl
@[simp] theorem State.push_draws (w : Word) (h : s.sp.toNat < 16) : (s.push w h).draws = s.draws := rfl

/-! `popPc` -/

@[simp] theorem State.popPc_v (h : (s.sp - 1).toNat < 16) : (s.popPc h).v = s.v := rfl
@[simp] theorem State.popPc_pc (h : (s.sp - 1).toNat < 16) : (s.popPc h).pc = s.stack[(s.sp - 1).toNat] := rfl
@[simp] theorem State.popPc_i (h : (s.sp - 1).toNat < 16) : (s.popPc h).i = s.i := rfl
@[simp] theorem State.popPc_sp (h : (s.sp - 1).toNat < 16) : (s.popPc h).sp = s.sp - 1 := rfl
@[simp] theorem State.popPc_stack (h : (s.sp - 1).toNat < 16) : (s.popPc h).stack = s.stack := rfl
@[simp] theorem State.popPc_mem (h : (s.sp - 1).toNat < 16) : (s.popPc h).mem = s.mem := rfl
@[simp] theorem State.popPc_fb (h : (s.sp - 1).toNat < 16) : (s.popPc h).fb = s.fb := rfl
@[simp] theorem State.popPc_key (h : (s.sp - 1).toNat < 16) : (s.popPc h).key = s.key := rfl
@[simp] theorem State.popPc_dt (h : (s.sp - 1).toNat < 16) : (s.popPc h).dt = s.dt := rfl
@[simp] theorem State.popPc_st (h : (s.sp - 1).toNat < 16) : (s.popPc h).st = s.st := rfl
@[simp] theorem State.popPc_fault (h : (s.sp - 1).toNat < 16) : (s.popPc h).fault = s.fault := rfl
@[simp] theorem State.popPc_kwait (h : (s.sp - 1).toNat < 16) : (s.popPc h).kwait = s.kwait := rfl
@[simp] theorem State.popPc_params (h : (s.sp - 1).toNat < 16) : (s.popPc h).params = s.params := rfl
@[simp] theorem State.popPc_randomIn (h : (s.sp - 1).toNat < 16) : (s.popPc h).randomIn = s.randomIn := rfl
@[simp] theorem State.popPc_draws (h : (s.sp - 1).toNat < 16) : (s.popPc h).draws = s.draws := rfl

/-! `dropRandom` -/

@[simp] theorem State.dropRandom_v : (s.dropRandom).v = s.v := rfl
@[simp] theorem State.dropRandom_pc : (s.dropRandom).pc = s.pc := rfl
@[simp] theorem State.dropRandom_i : (s.dropRandom).i = s.i := rfl
@[simp] theorem State.dropRandom_sp : (s.dropRandom).sp = s.sp := rfl
@[simp] theorem State.dropRandom_stack : (s.dropRandom).stack = s.stack := rfl
@[simp] theorem State.dropRandom_mem : (s.dropRandom).mem = s.mem := rfl
@[simp] theorem State.dropRandom_fb : (s.dropRandom).fb = s.fb := rfl
@[simp] theorem State.dropRandom_key : (s.dropRandom).key = s.key := rfl
@[simp] theorem State.dropRandom_dt : (s.dropRandom).dt = s.dt := rfl
@[simp] theorem State.dropRandom_st : (s.dropRandom).st = s.st := rfl
@[simp] theorem State.dropRandom_fault : (s.dropRandom).fault = s.fault := rfl
@[simp] theorem State.dropRandom_kwait : (s.dropRandom).kwait = s.kwait := rfl
@[simp] theorem State.dropRandom_params : (s.dropRandom).params = s.params := rfl
@[simp] theorem State.dropRandom_randomIn : (s.dropRandom).randomIn = s.randomIn.tail := rfl
@[simp] theorem State.dropRandom_draws : (s.dropRandom).draws = s.draws + 1 := rfl

/-! `latch` -/

@[simp] theorem State.latch_v (k : FaultKind) (w : Option Word) (d : Option Nat) : (s.latch k w d).v = s.v := rfl
@[simp] theorem State.latch_pc (k : FaultKind) (w : Option Word) (d : Option Nat) : (s.latch k w d).pc = s.pc := rfl
@[simp] theorem State.latch_i (k : FaultKind) (w : Option Word) (d : Option Nat) : (s.latch k w d).i = s.i := rfl
@[simp] theorem State.latch_sp (k : FaultKind) (w : Option Word) (d : Option Nat) : (s.latch k w d).sp = s.sp := rfl
@[simp] theorem State.latch_stack (k : FaultKind) (w : Option Word) (d : Option Nat) : (s.latch k w d).stack = s.stack := rfl
@[simp] theorem State.latch_mem (k : FaultKind) (w : Option Word) (d : Option Nat) : (s.latch k w d).mem = s.mem := rfl
@[simp] theorem State.latch_fb (k : FaultKind) (w : Option Word) (d : Option Nat) : (s.latch k w d).fb = s.fb := rfl
@[simp] theorem State.latch_key (k : FaultKind) (w : Option Word) (d : Option Nat) : (s.latch k w d).key = s.key := rfl
@[simp] theorem State.latch_dt (k : FaultKind) (w : Option Word) (d : Option Nat) : (s.latch k w d).dt = s.dt := rfl
@[simp] theorem State.latch_st (k : FaultKind) (w : Option Word) (d : Option Nat) : (s.latch k w d).st = s.st := rfl
@[simp] theorem State.latch_fault (k : FaultKind) (w : Option Word) (d : Option Nat) : (s.latch k w d).fault = some { kind := k, pc := s.pc, word := w, detail := d } := rfl
@[simp] theorem State.latch_kwait (k : FaultKind) (w : Option Word) (d : Option Nat) : (s.latch k w d).kwait = s.kwait := rfl
@[simp] theorem State.latch_params (k : FaultKind) (w : Option Word) (d : Option Nat) : (s.latch k w d).params = s.params := rfl
@[simp] theorem State.latch_randomIn (k : FaultKind) (w : Option Word) (d : Option Nat) : (s.latch k w d).randomIn = s.randomIn := rfl
@[simp] theorem State.latch_draws (k : FaultKind) (w : Option Word) (d : Option Nat) : (s.latch k w d).draws = s.draws := rfl

/-! `writeBytes` -/

@[simp] theorem State.writeBytes_v (a : Nat) (bs : List Byte) : (s.writeBytes a bs).v = s.v := rfl
@[simp] theorem State.writeBytes_pc (a : Nat) (bs : List Byte) : (s.writeBytes a bs).pc = s.pc := rfl
@[simp] theorem State.writeBytes_i (a : Nat) (bs : List Byte) : (s.writeBytes a bs).i = s.i := rfl
@[simp] theorem State.writeBytes_sp (a : Nat) (bs : List Byte) : (s.writeBytes a bs).sp = s.sp := rfl
@[simp] theorem State.writeBytes_stack (a : Nat) (bs : List Byte) : (s.writeBytes a bs).stack = s.stack := rfl
@[simp] theorem State.writeBytes_mem (a : Nat) (bs : List Byte) : (s.writeBytes a bs).mem = Memory.writeBytes s.params.font s.mem a bs := rfl
@[simp] theorem State.writeBytes_fb (a : Nat) (bs : List Byte) : (s.writeBytes a bs).fb = s.fb := rfl
@[simp] theorem State.writeBytes_key (a : Nat) (bs : List Byte) : (s.writeBytes a bs).key = s.key := rfl
@[simp] theorem State.writeBytes_dt (a : Nat) (bs : List Byte) : (s.writeBytes a bs).dt = s.dt := rfl
@[simp] theorem State.writeBytes_st (a : Nat) (bs : List Byte) : (s.writeBytes a bs).st = s.st := rfl
@[simp] theorem State.writeBytes_fault (a : Nat) (bs : List Byte) : (s.writeBytes a bs).fault = s.fault := rfl
@[simp] theorem State.writeBytes_kwait (a : Nat) (bs : List Byte) : (s.writeBytes a bs).kwait = s.kwait := rfl
@[simp] theorem State.writeBytes_params (a : Nat) (bs : List Byte) : (s.writeBytes a bs).params = s.params := rfl
@[simp] theorem State.writeBytes_randomIn (a : Nat) (bs : List Byte) : (s.writeBytes a bs).randomIn = s.randomIn := rfl
@[simp] theorem State.writeBytes_draws (a : Nat) (bs : List Byte) : (s.writeBytes a bs).draws = s.draws := rfl

/-! `loadRegsUpTo` -/

@[simp] theorem State.loadRegsUpTo_pc (x : Reg) : (s.loadRegsUpTo x).pc = s.pc := rfl
@[simp] theorem State.loadRegsUpTo_i (x : Reg) : (s.loadRegsUpTo x).i = s.i := rfl
@[simp] theorem State.loadRegsUpTo_sp (x : Reg) : (s.loadRegsUpTo x).sp = s.sp := rfl
@[simp] theorem State.loadRegsUpTo_stack (x : Reg) : (s.loadRegsUpTo x).stack = s.stack := rfl
@[simp] theorem State.loadRegsUpTo_mem (x : Reg) : (s.loadRegsUpTo x).mem = s.mem := rfl
@[simp] theorem State.loadRegsUpTo_fb (x : Reg) : (s.loadRegsUpTo x).fb = s.fb := rfl
@[simp] theorem State.loadRegsUpTo_key (x : Reg) : (s.loadRegsUpTo x).key = s.key := rfl
@[simp] theorem State.loadRegsUpTo_dt (x : Reg) : (s.loadRegsUpTo x).dt = s.dt := rfl
@[simp] theorem State.loadRegsUpTo_st (x : Reg) : (s.loadRegsUpTo x).st = s.st := rfl
@[simp] theorem State.loadRegsUpTo_fault (x : Reg) : (s.loadRegsUpTo x).fault = s.fault := rfl
@[simp] theorem State.loadRegsUpTo_kwait (x : Reg) : (s.loadRegsUpTo x).kwait = s.kwait := rfl
@[simp] theorem State.loadRegsUpTo_params (x : Reg) : (s.loadRegsUpTo x).params = s.params := rfl
@[simp] theorem State.loadRegsUpTo_randomIn (x : Reg) : (s.loadRegsUpTo x).randomIn = s.randomIn := rfl
@[simp] theorem State.loadRegsUpTo_draws (x : Reg) : (s.loadRegsUpTo x).draws = s.draws := rfl

/-! `advance` -/

@[simp] theorem State.advance_v : (s.advance).v = s.v := rfl
@[simp] theorem State.advance_pc : (s.advance).pc = s.pc + 2 := rfl
@[simp] theorem State.advance_i : (s.advance).i = s.i := rfl
@[simp] theorem State.advance_sp : (s.advance).sp = s.sp := rfl
@[simp] theorem State.advance_stack : (s.advance).stack = s.stack := rfl
@[simp] theorem State.advance_mem : (s.advance).mem = s.mem := rfl
@[simp] theorem State.advance_fb : (s.advance).fb = s.fb := rfl
@[simp] theorem State.advance_key : (s.advance).key = s.key := rfl
@[simp] theorem State.advance_dt : (s.advance).dt = s.dt := rfl
@[simp] theorem State.advance_st : (s.advance).st = s.st := rfl
@[simp] theorem State.advance_fault : (s.advance).fault = s.fault := rfl
@[simp] theorem State.advance_kwait : (s.advance).kwait = s.kwait := rfl
@[simp] theorem State.advance_params : (s.advance).params = s.params := rfl
@[simp] theorem State.advance_randomIn : (s.advance).randomIn = s.randomIn := rfl
@[simp] theorem State.advance_draws : (s.advance).draws = s.draws := rfl

/-! `skip` -/

@[simp] theorem State.skip_v : (s.skip).v = s.v := rfl
@[simp] theorem State.skip_pc : (s.skip).pc = s.pc + 2 := rfl
@[simp] theorem State.skip_i : (s.skip).i = s.i := rfl
@[simp] theorem State.skip_sp : (s.skip).sp = s.sp := rfl
@[simp] theorem State.skip_stack : (s.skip).stack = s.stack := rfl
@[simp] theorem State.skip_mem : (s.skip).mem = s.mem := rfl
@[simp] theorem State.skip_fb : (s.skip).fb = s.fb := rfl
@[simp] theorem State.skip_key : (s.skip).key = s.key := rfl
@[simp] theorem State.skip_dt : (s.skip).dt = s.dt := rfl
@[simp] theorem State.skip_st : (s.skip).st = s.st := rfl
@[simp] theorem State.skip_fault : (s.skip).fault = s.fault := rfl
@[simp] theorem State.skip_kwait : (s.skip).kwait = s.kwait := rfl
@[simp] theorem State.skip_params : (s.skip).params = s.params := rfl
@[simp] theorem State.skip_randomIn : (s.skip).randomIn = s.randomIn := rfl
@[simp] theorem State.skip_draws : (s.skip).draws = s.draws := rfl

/-! `setFlag` -/

@[simp] theorem State.setFlag_v (f : Bool) : (s.setFlag f).v = s.v.set VF (flagByte f) := rfl
@[simp] theorem State.setFlag_pc (f : Bool) : (s.setFlag f).pc = s.pc := rfl
@[simp] theorem State.setFlag_i (f : Bool) : (s.setFlag f).i = s.i := rfl
@[simp] theorem State.setFlag_sp (f : Bool) : (s.setFlag f).sp = s.sp := rfl
@[simp] theorem State.setFlag_stack (f : Bool) : (s.setFlag f).stack = s.stack := rfl
@[simp] theorem State.setFlag_mem (f : Bool) : (s.setFlag f).mem = s.mem := rfl
@[simp] theorem State.setFlag_fb (f : Bool) : (s.setFlag f).fb = s.fb := rfl
@[simp] theorem State.setFlag_key (f : Bool) : (s.setFlag f).key = s.key := rfl
@[simp] theorem State.setFlag_dt (f : Bool) : (s.setFlag f).dt = s.dt := rfl
@[simp] theorem State.setFlag_st (f : Bool) : (s.setFlag f).st = s.st := rfl
@[simp] theorem State.setFlag_fault (f : Bool) : (s.setFlag f).fault = s.fault := rfl
@[simp] theorem State.setFlag_kwait (f : Bool) : (s.setFlag f).kwait = s.kwait := rfl
@[simp] theorem State.setFlag_params (f : Bool) : (s.setFlag f).params = s.params := rfl
@[simp] theorem State.setFlag_randomIn (f : Bool) : (s.setFlag f).randomIn = s.randomIn := rfl
@[simp] theorem State.setFlag_draws (f : Bool) : (s.setFlag f).draws = s.draws := rfl

/-! `skipIf`, conditional -/

@[simp] theorem State.skipIf_v (c : Bool) : (s.skipIf c).v = s.v := by cases c <;> rfl
@[simp] theorem State.skipIf_pc (c : Bool) : (s.skipIf c).pc = if c then s.pc + 2 else s.pc := by cases c <;> rfl
@[simp] theorem State.skipIf_i (c : Bool) : (s.skipIf c).i = s.i := by cases c <;> rfl
@[simp] theorem State.skipIf_sp (c : Bool) : (s.skipIf c).sp = s.sp := by cases c <;> rfl
@[simp] theorem State.skipIf_stack (c : Bool) : (s.skipIf c).stack = s.stack := by cases c <;> rfl
@[simp] theorem State.skipIf_mem (c : Bool) : (s.skipIf c).mem = s.mem := by cases c <;> rfl
@[simp] theorem State.skipIf_fb (c : Bool) : (s.skipIf c).fb = s.fb := by cases c <;> rfl
@[simp] theorem State.skipIf_key (c : Bool) : (s.skipIf c).key = s.key := by cases c <;> rfl
@[simp] theorem State.skipIf_dt (c : Bool) : (s.skipIf c).dt = s.dt := by cases c <;> rfl
@[simp] theorem State.skipIf_st (c : Bool) : (s.skipIf c).st = s.st := by cases c <;> rfl
@[simp] theorem State.skipIf_fault (c : Bool) : (s.skipIf c).fault = s.fault := by cases c <;> rfl
@[simp] theorem State.skipIf_kwait (c : Bool) : (s.skipIf c).kwait = s.kwait := by cases c <;> rfl
@[simp] theorem State.skipIf_params (c : Bool) : (s.skipIf c).params = s.params := by cases c <;> rfl
@[simp] theorem State.skipIf_randomIn (c : Bool) : (s.skipIf c).randomIn = s.randomIn := by cases c <;> rfl
@[simp] theorem State.skipIf_draws (c : Bool) : (s.skipIf c).draws = s.draws := by cases c <;> rfl

/-! `ldstIncrement`, conditional -/

@[simp] theorem State.ldstIncrement_v (x : Reg) :
    (s.ldstIncrement x).v = s.v := by
  unfold State.ldstIncrement; split <;> rfl
@[simp] theorem State.ldstIncrement_pc (x : Reg) :
    (s.ldstIncrement x).pc = s.pc := by
  unfold State.ldstIncrement; split <;> rfl
@[simp] theorem State.ldstIncrement_i (x : Reg) :
    (s.ldstIncrement x).i = if s.params.ldstIncrementsI then BitVec.ofNat 16 (s.dataAddr + x.val + 1) else s.i := by
  unfold State.ldstIncrement; split <;> rfl
@[simp] theorem State.ldstIncrement_sp (x : Reg) :
    (s.ldstIncrement x).sp = s.sp := by
  unfold State.ldstIncrement; split <;> rfl
@[simp] theorem State.ldstIncrement_stack (x : Reg) :
    (s.ldstIncrement x).stack = s.stack := by
  unfold State.ldstIncrement; split <;> rfl
@[simp] theorem State.ldstIncrement_mem (x : Reg) :
    (s.ldstIncrement x).mem = s.mem := by
  unfold State.ldstIncrement; split <;> rfl
@[simp] theorem State.ldstIncrement_fb (x : Reg) :
    (s.ldstIncrement x).fb = s.fb := by
  unfold State.ldstIncrement; split <;> rfl
@[simp] theorem State.ldstIncrement_key (x : Reg) :
    (s.ldstIncrement x).key = s.key := by
  unfold State.ldstIncrement; split <;> rfl
@[simp] theorem State.ldstIncrement_dt (x : Reg) :
    (s.ldstIncrement x).dt = s.dt := by
  unfold State.ldstIncrement; split <;> rfl
@[simp] theorem State.ldstIncrement_st (x : Reg) :
    (s.ldstIncrement x).st = s.st := by
  unfold State.ldstIncrement; split <;> rfl
@[simp] theorem State.ldstIncrement_fault (x : Reg) :
    (s.ldstIncrement x).fault = s.fault := by
  unfold State.ldstIncrement; split <;> rfl
@[simp] theorem State.ldstIncrement_kwait (x : Reg) :
    (s.ldstIncrement x).kwait = s.kwait := by
  unfold State.ldstIncrement; split <;> rfl
@[simp] theorem State.ldstIncrement_params (x : Reg) :
    (s.ldstIncrement x).params = s.params := by
  unfold State.ldstIncrement; split <;> rfl
@[simp] theorem State.ldstIncrement_randomIn (x : Reg) :
    (s.ldstIncrement x).randomIn = s.randomIn := by
  unfold State.ldstIncrement; split <;> rfl
@[simp] theorem State.ldstIncrement_draws (x : Reg) :
    (s.ldstIncrement x).draws = s.draws := by
  unfold State.ldstIncrement; split <;> rfl

/-! The accessors over the updates that leave what they read: `V[r]`, a byte of memory, `I` as an address, the keypad. -/

@[simp] theorem State.setV_readByte (r : Reg) (b : Byte) (n : Nat) : (s.setV r b).readByte n = s.readByte n := rfl
@[simp] theorem State.setV_dataAddr (r : Reg) (b : Byte) : (s.setV r b).dataAddr = s.dataAddr := rfl
@[simp] theorem State.setV_leastKeyDown (r : Reg) (b : Byte) : (s.setV r b).leastKeyDown = s.leastKeyDown := rfl
@[simp] theorem State.setI_getV (w : Word) (q : Reg) : (s.setI w).getV q = s.getV q := rfl
@[simp] theorem State.setI_readByte (w : Word) (n : Nat) : (s.setI w).readByte n = s.readByte n := rfl
@[simp] theorem State.setI_leastKeyDown (w : Word) : (s.setI w).leastKeyDown = s.leastKeyDown := rfl
@[simp] theorem State.setPc_getV (w : Word) (q : Reg) : (s.setPc w).getV q = s.getV q := rfl
@[simp] theorem State.setPc_readByte (w : Word) (n : Nat) : (s.setPc w).readByte n = s.readByte n := rfl
@[simp] theorem State.setPc_dataAddr (w : Word) : (s.setPc w).dataAddr = s.dataAddr := rfl
@[simp] theorem State.setPc_leastKeyDown (w : Word) : (s.setPc w).leastKeyDown = s.leastKeyDown := rfl
@[simp] theorem State.setDt_getV (b : Byte) (q : Reg) : (s.setDt b).getV q = s.getV q := rfl
@[simp] theorem State.setDt_readByte (b : Byte) (n : Nat) : (s.setDt b).readByte n = s.readByte n := rfl
@[simp] theorem State.setDt_dataAddr (b : Byte) : (s.setDt b).dataAddr = s.dataAddr := rfl
@[simp] theorem State.setDt_leastKeyDown (b : Byte) : (s.setDt b).leastKeyDown = s.leastKeyDown := rfl
@[simp] theorem State.setSt_getV (b : Byte) (q : Reg) : (s.setSt b).getV q = s.getV q := rfl
@[simp] theorem State.setSt_readByte (b : Byte) (n : Nat) : (s.setSt b).readByte n = s.readByte n := rfl
@[simp] theorem State.setSt_dataAddr (b : Byte) : (s.setSt b).dataAddr = s.dataAddr := rfl
@[simp] theorem State.setSt_leastKeyDown (b : Byte) : (s.setSt b).leastKeyDown = s.leastKeyDown := rfl
@[simp] theorem State.setKwait_getV (k : Option Reg) (q : Reg) : (s.setKwait k).getV q = s.getV q := rfl
@[simp] theorem State.setKwait_readByte (k : Option Reg) (n : Nat) : (s.setKwait k).readByte n = s.readByte n := rfl
@[simp] theorem State.setKwait_dataAddr (k : Option Reg) : (s.setKwait k).dataAddr = s.dataAddr := rfl
@[simp] theorem State.setKwait_leastKeyDown (k : Option Reg) : (s.setKwait k).leastKeyDown = s.leastKeyDown := rfl
@[simp] theorem State.setFb_getV (f : Vector (Vector Bool 64) 32) (q : Reg) : (s.setFb f).getV q = s.getV q := rfl
@[simp] theorem State.setFb_readByte (f : Vector (Vector Bool 64) 32) (n : Nat) : (s.setFb f).readByte n = s.readByte n := rfl
@[simp] theorem State.setFb_dataAddr (f : Vector (Vector Bool 64) 32) : (s.setFb f).dataAddr = s.dataAddr := rfl
@[simp] theorem State.setFb_leastKeyDown (f : Vector (Vector Bool 64) 32) : (s.setFb f).leastKeyDown = s.leastKeyDown := rfl
@[simp] theorem State.push_getV (w : Word) (h : s.sp.toNat < 16) (q : Reg) : (s.push w h).getV q = s.getV q := rfl
@[simp] theorem State.push_readByte (w : Word) (h : s.sp.toNat < 16) (n : Nat) : (s.push w h).readByte n = s.readByte n := rfl
@[simp] theorem State.push_dataAddr (w : Word) (h : s.sp.toNat < 16) : (s.push w h).dataAddr = s.dataAddr := rfl
@[simp] theorem State.push_leastKeyDown (w : Word) (h : s.sp.toNat < 16) : (s.push w h).leastKeyDown = s.leastKeyDown := rfl
@[simp] theorem State.popPc_getV (h : (s.sp - 1).toNat < 16) (q : Reg) : (s.popPc h).getV q = s.getV q := rfl
@[simp] theorem State.popPc_readByte (h : (s.sp - 1).toNat < 16) (n : Nat) : (s.popPc h).readByte n = s.readByte n := rfl
@[simp] theorem State.popPc_dataAddr (h : (s.sp - 1).toNat < 16) : (s.popPc h).dataAddr = s.dataAddr := rfl
@[simp] theorem State.popPc_leastKeyDown (h : (s.sp - 1).toNat < 16) : (s.popPc h).leastKeyDown = s.leastKeyDown := rfl
@[simp] theorem State.dropRandom_getV (q : Reg) : (s.dropRandom).getV q = s.getV q := rfl
@[simp] theorem State.dropRandom_readByte (n : Nat) : (s.dropRandom).readByte n = s.readByte n := rfl
@[simp] theorem State.dropRandom_dataAddr : (s.dropRandom).dataAddr = s.dataAddr := rfl
@[simp] theorem State.dropRandom_leastKeyDown : (s.dropRandom).leastKeyDown = s.leastKeyDown := rfl
@[simp] theorem State.latch_getV (k : FaultKind) (w : Option Word) (d : Option Nat) (q : Reg) : (s.latch k w d).getV q = s.getV q := rfl
@[simp] theorem State.latch_readByte (k : FaultKind) (w : Option Word) (d : Option Nat) (n : Nat) : (s.latch k w d).readByte n = s.readByte n := rfl
@[simp] theorem State.latch_dataAddr (k : FaultKind) (w : Option Word) (d : Option Nat) : (s.latch k w d).dataAddr = s.dataAddr := rfl
@[simp] theorem State.latch_leastKeyDown (k : FaultKind) (w : Option Word) (d : Option Nat) : (s.latch k w d).leastKeyDown = s.leastKeyDown := rfl
@[simp] theorem State.writeBytes_getV (a : Nat) (bs : List Byte) (q : Reg) : (s.writeBytes a bs).getV q = s.getV q := rfl
@[simp] theorem State.writeBytes_dataAddr (a : Nat) (bs : List Byte) : (s.writeBytes a bs).dataAddr = s.dataAddr := rfl
@[simp] theorem State.writeBytes_leastKeyDown (a : Nat) (bs : List Byte) : (s.writeBytes a bs).leastKeyDown = s.leastKeyDown := rfl
@[simp] theorem State.loadRegsUpTo_readByte (x : Reg) (n : Nat) : (s.loadRegsUpTo x).readByte n = s.readByte n := rfl
@[simp] theorem State.loadRegsUpTo_dataAddr (x : Reg) : (s.loadRegsUpTo x).dataAddr = s.dataAddr := rfl
@[simp] theorem State.loadRegsUpTo_leastKeyDown (x : Reg) : (s.loadRegsUpTo x).leastKeyDown = s.leastKeyDown := rfl
@[simp] theorem State.advance_getV (q : Reg) : (s.advance).getV q = s.getV q := rfl
@[simp] theorem State.advance_readByte (n : Nat) : (s.advance).readByte n = s.readByte n := rfl
@[simp] theorem State.advance_dataAddr : (s.advance).dataAddr = s.dataAddr := rfl
@[simp] theorem State.advance_leastKeyDown : (s.advance).leastKeyDown = s.leastKeyDown := rfl
@[simp] theorem State.skip_getV (q : Reg) : (s.skip).getV q = s.getV q := rfl
@[simp] theorem State.skip_readByte (n : Nat) : (s.skip).readByte n = s.readByte n := rfl
@[simp] theorem State.skip_dataAddr : (s.skip).dataAddr = s.dataAddr := rfl
@[simp] theorem State.skip_leastKeyDown : (s.skip).leastKeyDown = s.leastKeyDown := rfl
@[simp] theorem State.setFlag_readByte (f : Bool) (n : Nat) : (s.setFlag f).readByte n = s.readByte n := rfl
@[simp] theorem State.setFlag_dataAddr (f : Bool) : (s.setFlag f).dataAddr = s.dataAddr := rfl
@[simp] theorem State.setFlag_leastKeyDown (f : Bool) : (s.setFlag f).leastKeyDown = s.leastKeyDown := rfl
@[simp] theorem State.skipIf_getV (c : Bool) (q : Reg) : (s.skipIf c).getV q = s.getV q := by cases c <;> rfl
@[simp] theorem State.skipIf_readByte (c : Bool) (n : Nat) : (s.skipIf c).readByte n = s.readByte n := by cases c <;> rfl
@[simp] theorem State.ldstIncrement_getV (x : Reg) (q : Reg) : (s.ldstIncrement x).getV q = s.getV q := by
  unfold State.ldstIncrement; split <;> rfl
@[simp] theorem State.ldstIncrement_readByte (x : Reg) (n : Nat) : (s.ldstIncrement x).readByte n = s.readByte n := by
  unfold State.ldstIncrement; split <;> rfl

end Sys2Proof.Machine
end

