-- ==== Sys2Proof/Laws/Ops.lean ====
section
/-! SUPPORT. What each shared operation over registers, flags, keypad and memory does, said once. -/

namespace Sys2Proof.Machine

variable {s : State}

/-! ### Registers and flags -/

/-- A register after a write: the value written, and every other register as before (10_state.md R21). -/
@[simp] theorem State.setV_getV (r q : Reg) (b : Byte) :
    (s.setV r b).getV q = if q = r then b else s.getV q := by
  by_cases h : q = r
  · subst h; simp [State.getV, State.setV]
  · have : ¬ r.val = q.val := fun e => h (Fin.ext e.symm)
    simp [State.getV, State.setV, h, this]

/-- `VF` after a flag, and every other register as before. -/
@[simp] theorem State.setFlag_getV (q : Reg) (f : Bool) :
    (s.setFlag f).getV q = if q = VF then flagByte f else s.getV q := by
  simp [State.setFlag]

/-- A result and then a flag: the flag is what `VF` holds, also when `X = 15` (10_state.md R22). -/
@[simp] theorem State.setResultAndFlag_getV (x q : Reg) (b : Byte) (f : Bool) :
    (s.setResultAndFlag x b f).getV q
      = if q = VF then flagByte f else if q = x then b else s.getV q := by
  simp [State.setResultAndFlag]

/-- A result and a flag change nothing but registers: every other field by this equation and the lemmas of
`setV` and `setFlag`. -/
theorem State.setResultAndFlag_eq (x : Reg) (b : Byte) (f : Bool) :
    s.setResultAndFlag x b f = (s.setV x b).setFlag f := rfl

theorem State.advance_eq : s.advance = s.setPc (s.pc + 2) := rfl

/-- Two register files that read alike are the same. -/
theorem State.v_ext {t : State} (h : ∀ r, t.getV r = s.getV r) : t.v = s.v :=
  Vector.ext fun k hk => h ⟨k, hk⟩

/-! ### Memory through the state -/

/-- A byte after the bytes `bs` are stored at `a`, in a memory whose addresses rise. -/
theorem State.writeBytes_readByte (hm : s.mem.Pairwise fun c d => c.1 < d.1) (a n : Nat) (bs : List Byte) :
    (s.writeBytes a bs).readByte n
      = if h : a ≤ n ∧ n - a < bs.length then bs[n - a] else s.readByte n :=
  Memory.read_writeBytes hm

/-- The registers after FX65's loads: `V[0]`..`V[X]` from memory, the others as before. -/
@[simp] theorem State.loadRegsUpTo_getV (x q : Reg) :
    (s.loadRegsUpTo x).getV q = if q ≤ x then s.readByte (s.dataAddr + q.val) else s.getV q := by
  simp [State.getV, State.loadRegsUpTo]

/-- FX55 stores one byte per register. -/
@[simp] theorem State.regsUpTo_length (x : Reg) : (s.regsUpTo x).length = x.val + 1 := by
  simp [State.regsUpTo]

/-- The k-th byte FX55 stores is `V[k]`. -/
theorem State.regsUpTo_getElem (x : Reg) (k : Nat) (h : k < (s.regsUpTo x).length) :
    (s.regsUpTo x)[k] = s.getV ⟨k, by simp at h; omega⟩ := by
  simp [State.regsUpTo, State.getV]

@[simp] theorem bcdDigits_length (b : Byte) : (bcdDigits b).length = 3 := rfl

/-- The rows of a sprite are as many as `N` says. -/
@[simp] theorem State.spriteRows_length (n : Nibble) : (s.spriteRows n).length = n.toNat := by
  simp [State.spriteRows, accessList]

/-- Row `r` of a sprite is the byte at `I + r`. -/
theorem State.spriteRows_getElem (n : Nibble) (r : Nat) (h : r < (s.spriteRows n).length) :
    (s.spriteRows n)[r] = s.readByte (s.dataAddr + r) := by
  simp [State.spriteRows, accessList]

/-! ### The keypad -/

/-- A key index in range names its flag. -/
theorem State.keyNamed_of_lt {b : Byte} (h : b.toNat < 16) : s.keyNamed b = some s.key[b.toNat] := by
  simp [State.keyNamed, h]

/-- A key index out of range names nothing. -/
theorem State.keyNamed_of_ge {b : Byte} (h : 16 ≤ b.toNat) : s.keyNamed b = none := by
  have : ¬ b.toNat < 16 := by omega
  simp [State.keyNamed, this]

/-- No key is down. -/
theorem State.leastKeyDown_eq_none : s.leastKeyDown = none ↔ ∀ k : Reg, s.key[k] = false := by
  simp [State.leastKeyDown, List.find?_eq_none]

/-- The least key down. -/
theorem State.leastKeyDown_eq_some {k : Reg} :
    s.leastKeyDown = some k ↔ s.key[k] = true ∧ ∀ j : Reg, j < k → s.key[j] = false := by
  unfold State.leastKeyDown
  rw [List.find?_eq_some_iff_getElem]
  constructor
  · rintro ⟨hk, i, hi, e, hlt⟩
    have hi' : i = k.val := by rw [List.getElem_finRange] at e; simpa using congrArg Fin.val e
    refine ⟨hk, fun j hj => ?_⟩
    have := hlt j.val (by rw [hi']; exact hj)
    simpa using this
  · rintro ⟨hk, hlt⟩
    refine ⟨hk, k.val, by simp, by simp, fun j hj => ?_⟩
    have := hlt ⟨j, by omega⟩ hj
    simpa using this

/-! ### Faults -/

/-- Taking a fault is a next state, the state before with the record latched (60_exceptions.md R174). -/
theorem raiseFault_eq (kind : FaultKind) (i : Instr) (detail : Option Nat) :
    raiseFault kind i detail s
      = .next { s with fault := some ⟨kind, s.pc, some (encode i), detail⟩ } := rfl

/-- Reset in place, field by field, is the constructed state of the machine's parameters with the host's byte
source left where it is. -/
theorem State.resetInPlace_eq :
    s.resetInPlace = { State.construct s.params s.draws with randomIn := s.randomIn } := rfl

end Sys2Proof.Machine
end

