-- ==== Sys2Proof/Laws/Exec.lean ====
section
/-! SUPPORT. Everything an instruction and a step can do to the latch, the parameters, the keypad, the memory's form, the
stack pointer and the key wait, said once, for the claims over all instructions. -/

namespace Sys2Proof.Machine

variable {i : Instr} {s t : State}

/-- What an instruction that raises no fault leaves as it was, or within its bounds. -/
structure Quiet (s t : State) : Prop where
  fault : t.fault = s.fault
  params : t.params = s.params
  key : t.key = s.key
  memory : Memory.wf s.params.font s.mem = true → Memory.wf s.params.font t.mem = true
  stackPointer : s.sp.toNat ≤ 16 → t.sp.toNat ≤ 16
  keyWait : s.params.keywait = .press → t.kwait = s.kwait

/-- An instruction that leaves memory, `SP` and `KWAIT` alone is quiet. -/
theorem Quiet.of_eq (hf : t.fault = s.fault) (hp : t.params = s.params) (hk : t.key = s.key)
    (hm : t.mem = s.mem) (hs : t.sp = s.sp) (hw : t.kwait = s.kwait) : Quiet s t :=
  ⟨hf, hp, hk, fun h => hm ▸ h, fun h => hs ▸ h, fun _ => hw⟩

theorem next_inj {a b : State} (h : (Host.Outcome.next a : Result) = .next b) : b = a := by
  injection h with h; exact h.symm

/-- What an instruction that faults leaves: the state before, with a record of its own kind and shape. -/
def Faulted (i : Instr) (s t : State) : Prop :=
  ∃ kind detail, i.faultKind = some kind ∧ t = s.faulted i kind detail ∧
    FaultRecord.wf ⟨kind, s.pc, some (encode i), detail⟩ = true

/-- A key index that names no flag is out of range. -/
theorem State.keyNamed_eq_none {b : Byte} (h : s.keyNamed b = none) : 16 ≤ b.toNat := by
  by_contra hb
  rw [State.keyNamed_of_lt (by omega)] at h
  cases h

/-- Every next state of an instruction is a fault of its own kind, or quiet. -/
theorem exec_cases (h : exec i s = .next t) : Faulted i s t ∨ Quiet s t := by
  cases i with
  | ret =>
    simp only [exec, execRet] at h
    split at h
    · exact .inl ⟨_, _, rfl, next_inj h, rfl⟩
    · split at h
      · rename_i hlt
        obtain rfl := next_inj h
        exact .inr ⟨rfl, rfl, rfl, id, fun _ => Nat.le_of_lt hlt, fun _ => rfl⟩
      · cases h
  | call nnn =>
    simp only [exec, execCall] at h
    split at h
    · exact .inl ⟨_, _, rfl, next_inj h, rfl⟩
    · split at h
      · rename_i hlt
        obtain rfl := next_inj h
        refine .inr ⟨rfl, rfl, rfl, id, fun _ => ?_, fun _ => rfl⟩
        have hs : s.sp.toNat < 16 := hlt
        show (s.sp + 1).toNat ≤ 16
        rw [BitVec.toNat_add, show (1 : Word).toNat = 1 from rfl]
        omega
      · cases h
  | skp x | sknp x =>
    simp only [exec, execSkp, execSknp] at h
    split at h
    · have hk := State.keyNamed_eq_none ‹_›
      have := (s.getV x).isLt
      exact .inl ⟨_, _, rfl, next_inj h, by simp [FaultRecord.wf]; omega⟩
    · obtain rfl := next_inj h
      exact .inr (by apply Quiet.of_eq <;> simp)
  | ldFVx x =>
    simp only [exec, execLdFVx] at h
    split at h
    · have := (s.getV x).isLt
      exact .inl ⟨_, _, rfl, next_inj h, by simp [FaultRecord.wf]; omega⟩
    · obtain rfl := next_inj h
      exact .inr (by apply Quiet.of_eq <;> simp)
  | ldVxK x =>
    simp only [exec, execLdVxK] at h
    split at h
    · obtain rfl := next_inj h
      unfold State.keyWaitPress
      exact .inr (by split <;> apply Quiet.of_eq <;> rfl)
    · rename_i hk
      have hw : s.params.keywait ≠ .press := by rw [hk]; decide
      obtain rfl := next_inj h
      unfold State.keyWaitPressRelease
      exact .inr (by split <;> split <;> exact ⟨rfl, rfl, rfl, id, id, fun e => absurd e hw⟩)
  | drw x y n =>
    simp only [exec, execDrw] at h
    split at h
    · obtain ⟨rfl, -⟩ := lowestBad_eq_some_iff.1 ‹_›
      exact .inl ⟨_, _, rfl, next_inj h, by simp [FaultRecord.wf]⟩
    · obtain rfl := next_inj h
      exact .inr (by apply Quiet.of_eq <;> rfl)
  | ldBVx x =>
    simp only [exec, execLdBVx] at h
    rcases lowestBad_cases s.dataAddr 3 with ⟨e, hb⟩ | ⟨e, -⟩ <;> rw [e] at h
    · obtain rfl := next_inj h
      exact .inr ⟨rfl, rfl, rfl, fun hw => Memory.wf_writeBytes hw (by simp at *; omega), id, fun _ => rfl⟩
    · exact .inl ⟨_, _, rfl, next_inj h, by simp [FaultRecord.wf]⟩
  | ldMemVx x =>
    simp only [exec, execLdMemVx] at h
    rcases lowestBad_cases s.dataAddr (x.val + 1) with ⟨e, hb⟩ | ⟨e, -⟩ <;> rw [e] at h
    · obtain rfl := next_inj h
      refine .inr ⟨by simp, by simp, by simp, fun hw => ?_, by simp, by simp⟩
      rw [State.ldstIncrement_mem]
      exact Memory.wf_writeBytes hw (by simp at *; omega)
    · exact .inl ⟨_, _, rfl, next_inj h, by simp [FaultRecord.wf]⟩
  | ldVxMem x =>
    simp only [exec, execLdVxMem] at h
    rcases lowestBad_cases s.dataAddr (x.val + 1) with ⟨e, -⟩ | ⟨e, -⟩ <;> rw [e] at h
    · obtain rfl := next_inj h
      exact .inr (by apply Quiet.of_eq <;> simp)
    · exact .inl ⟨_, _, rfl, next_inj h, by simp [FaultRecord.wf]⟩
  | seImm | sneImm | seReg | sneReg =>
    obtain rfl := next_inj h
    exact .inr (by apply Quiet.of_eq <;> simp)
  | cls | nop | jp | jpV0 | ldImm | addImm | ldReg | or | and | xor | addReg | sub | shr | subn | shl | ldI
  | rnd | ldVxDt | ldDtVx | ldStVx | addIVx =>
    obtain rfl := next_inj h
    exact .inr (by apply Quiet.of_eq <;> rfl)

/-- What a step does, by the priority of 60_exceptions.md R173: nothing when a fault is latched, a fetch fault, an
unknown opcode, or the decoded instruction. -/
theorem step_cases (s : State) :
    (s.fault ≠ none ∧ step s = .next s) ∨
    (s.fault = none ∧ 0xFFF ≤ s.pc.toNat ∧
      step s = .next (s.latch .memoryOutOfBounds none (some (max s.pc.toNat Config.memSize)))) ∨
    (s.fault = none ∧ s.pc.toNat + 1 < 4096 ∧ decode s.params.opset s.fetchWord = none ∧
      step s = .next (s.latch .unknownOpcode (some s.fetchWord) none)) ∨
    (s.fault = none ∧ s.pc.toNat + 1 < 4096 ∧
      ∃ i, decode s.params.opset s.fetchWord = some i ∧ step s = exec i s) := by
  by_cases hf : s.fault = none
  · rcases lowestBad_cases s.pc.toNat 2 with ⟨e, hb⟩ | ⟨e, hb⟩ <;> simp only [Config.memSize] at hb
    · have hp : s.pc.toNat + 1 < 4096 := by omega
      cases hd : decode s.params.opset s.fetchWord with
      | none => exact .inr (.inr (.inl ⟨hf, hp, rfl, by simp [step, State.fetchDecode, hf, e, hd]⟩))
      | some i => exact .inr (.inr (.inr ⟨hf, hp, i, rfl, by simp [step, State.fetchDecode, hf, e, hd]⟩))
    · exact .inr (.inl ⟨hf, by omega, by simp [step, State.fetchDecode, hf, e]⟩)
  · exact .inl ⟨hf, by simp [step, State.fetchDecode, Option.isSome_iff_ne_none, hf]⟩

end Sys2Proof.Machine
end

