-- ==== Sys2Proof/Laws/Framebuffer.lean ====
section
/-! SUPPORT. What a cell of the framebuffer reads after each operation on it, and DXYN's loops as one list of pixels,
each toggled once (41_display.md R101: "No cell is toggled twice in one draw"). -/

namespace Sys2Proof.Machine

variable {fb : Framebuffer}

@[simp] theorem Framebuffer.get_set (x x' : Fin 64) (y y' : Fin 32) (b : Bool) :
    Framebuffer.get (Framebuffer.set fb x y b) x' y'
      = if x' = x ∧ y' = y then b else Framebuffer.get fb x' y' := by
  unfold Framebuffer.get Framebuffer.set
  by_cases hy : y' = y
  · subst hy
    by_cases hx : x' = x
    · subst hx; simp
    · have : ¬ x.val = x'.val := fun e => hx (Fin.ext e.symm)
      simp [hx, this]
  · have : ¬ y.val = y'.val := fun e => hy (Fin.ext e.symm)
    simp [hy, this]

@[simp] theorem Framebuffer.get_clear (x : Fin 64) (y : Fin 32) :
    Framebuffer.get Framebuffer.clear x y = false := by
  simp [Framebuffer.get, Framebuffer.clear]

/-- Two framebuffers that read alike are the same. -/
theorem Framebuffer.ext {fb' : Framebuffer}
    (h : ∀ x y, Framebuffer.get fb x y = Framebuffer.get fb' x y) : fb = fb' :=
  Vector.ext fun y hy => Vector.ext fun x hx => h ⟨x, hx⟩ ⟨y, hy⟩

/-- The pixels of one row, in the order of R101's inner loop. -/
def rowPixels (x0 y : Nat) (row : Byte) : List (Fin 64 × Fin 32) :=
  ((List.range 8).filter fun c => row.getLsbD (7 - c)).map fun c => (wrapX (x0 + c), wrapY y)

/-- The pixels of a sprite, in the order of R101's loops. -/
def spritePixels (x0 : Nat) : Nat → List Byte → List (Fin 64 × Fin 32)
  | _, [] => []
  | y, row :: rows => rowPixels x0 y row ++ spritePixels x0 (y + 1) rows

/-- Toggling a list of pixels. -/
def toggleAll (d : Framebuffer × Bool) (ps : List (Fin 64 × Fin 32)) : Framebuffer × Bool :=
  ps.foldl (fun d p => togglePixel d p.1 p.2) d

theorem drawRow_eq_toggleAll (x0 y : Nat) (row : Byte) (d : Framebuffer × Bool) :
    drawRow x0 y row d = toggleAll d (rowPixels x0 y row) := by
  simp [drawRow, toggleAll, rowPixels, List.foldl_map, List.foldl_filter]

/-- DXYN's loops toggle the sprite's pixels. -/
theorem drawRows_eq_toggleAll (x0 : Nat) : ∀ (rows : List Byte) (y : Nat) (d : Framebuffer × Bool),
    drawRows x0 y rows d = toggleAll d (spritePixels x0 y rows)
  | [], _, _ => rfl
  | row :: rows, y, d => by
    rw [drawRows, drawRows_eq_toggleAll x0 rows, drawRow_eq_toggleAll, spritePixels]
    simp [toggleAll]

/-- A pixel lies on a row exactly when one of its eight bits is there. -/
theorem mem_rowPixels {x0 y : Nat} {row : Byte} {p : Fin 64 × Fin 32} :
    p ∈ rowPixels x0 y row ↔
      ∃ c < 8, row.getLsbD (7 - c) = true ∧ p.1.val = (x0 + c) % 64 ∧ p.2.val = y % 32 := by
  simp only [rowPixels, List.mem_map, List.mem_filter, List.mem_range, wrapX, wrapY]
  constructor
  · rintro ⟨c, ⟨hc, hb⟩, rfl⟩
    exact ⟨c, hc, hb, rfl, rfl⟩
  · rintro ⟨c, hc, hb, hx, hy⟩
    exact ⟨c, ⟨hc, hb⟩, Prod.ext (Fin.ext hx.symm) (Fin.ext hy.symm)⟩

/-- A pixel lies on the sprite exactly when a row of it has it. -/
theorem mem_spritePixels {x0 : Nat} {p : Fin 64 × Fin 32} : ∀ {rows : List Byte} {y : Nat},
    p ∈ spritePixels x0 y rows ↔
      ∃ r, ∃ h : r < rows.length, ∃ c < 8,
        rows[r].getLsbD (7 - c) = true ∧ p.1.val = (x0 + c) % 64 ∧ p.2.val = (y + r) % 32
  | [], y => by simp [spritePixels]
  | row :: rows, y => by
    rw [spritePixels, List.mem_append, mem_rowPixels, mem_spritePixels]
    constructor
    · rintro (⟨c, hc, h⟩ | ⟨r, hr, c, hc, hb, hx, hy⟩)
      · exact ⟨0, by simp, c, hc, h⟩
      · exact ⟨r + 1, by simpa using hr, c, hc, by simpa using hb, hx, by rw [hy]; congr 1; omega⟩
    · rintro ⟨r, hr, c, hc, hb, hx, hy⟩
      cases r with
      | zero => exact .inl ⟨c, hc, hb, hx, hy⟩
      | succ r =>
        exact .inr ⟨r, by simpa using hr, c, hc, by simpa using hb, hx, by rw [hy]; congr 1; omega⟩

theorem nodup_rowPixels (x0 y : Nat) (row : Byte) : (rowPixels x0 y row).Nodup := by
  refine (List.nodup_range.filter _).map_on ?_
  intro a ha b hb e
  simp only [List.mem_filter, List.mem_range] at ha hb
  have := congrArg (fun p => p.1.val) e
  simp only [wrapX] at this
  omega

/-- No pixel of a sprite of at most 32 rows comes twice (R101). -/
theorem nodup_spritePixels (x0 : Nat) : ∀ (rows : List Byte) (y : Nat), rows.length ≤ 32 →
    (spritePixels x0 y rows).Nodup
  | [], _, _ => List.nodup_nil
  | row :: rows, y, h => by
    simp only [List.length_cons] at h
    rw [spritePixels, List.nodup_append]
    refine ⟨nodup_rowPixels x0 y row, nodup_spritePixels x0 rows (y + 1) (by omega), ?_⟩
    rintro p hp q hq rfl
    obtain ⟨-, -, -, -, h1⟩ := mem_rowPixels.1 hp
    obtain ⟨r, hr, -, -, -, -, h2⟩ := mem_spritePixels.1 hq
    omega

/-- Toggling pixels that come once each: those cells flip, the others stay, and the collision is that one of them
was lit. -/
theorem toggleAll_spec : ∀ (ps : List (Fin 64 × Fin 32)) (d : Framebuffer × Bool), ps.Nodup →
    (∀ x y, Framebuffer.get (toggleAll d ps).1 x y
        = (Framebuffer.get d.1 x y ^^ decide ((x, y) ∈ ps))) ∧
      ((toggleAll d ps).2 = true ↔ d.2 = true ∨ ∃ p ∈ ps, Framebuffer.get d.1 p.1 p.2 = true)
  | [], d, _ => by simp [toggleAll]
  | p :: ps, d, h => by
    obtain ⟨hp, hn⟩ := List.nodup_cons.1 h
    obtain ⟨h1, h2⟩ := toggleAll_spec ps (togglePixel d p.1 p.2) hn
    have e : toggleAll d (p :: ps) = toggleAll (togglePixel d p.1 p.2) ps := rfl
    constructor
    · intro x y
      rw [e, h1]
      simp only [togglePixel, Framebuffer.get_set]
      by_cases hxy : (x, y) = p
      · subst hxy; simp [hp]
      · have hne : ¬ (x = p.1 ∧ y = p.2) := fun hh => hxy (Prod.ext hh.1 hh.2)
        simp [hne, hxy]
    · rw [e, h2]
      simp only [togglePixel, Framebuffer.get_set, Bool.or_eq_true, List.mem_cons, exists_eq_or_imp]
      constructor
      · rintro ((h | h) | ⟨q, hq, hl⟩)
        · exact .inl h
        · exact .inr (.inl h)
        · have : ¬ (q.1 = p.1 ∧ q.2 = p.2) := fun hh => hp (by rwa [← Prod.ext hh.1 hh.2])
          rw [if_neg this] at hl
          exact .inr (.inr ⟨q, hq, hl⟩)
      · rintro (h | h | ⟨q, hq, hl⟩)
        · exact .inl (.inl h)
        · exact .inl (.inr h)
        · have : ¬ (q.1 = p.1 ∧ q.2 = p.2) := fun hh => hp (by rwa [← Prod.ext hh.1 hh.2])
          exact .inr ⟨q, hq, by rwa [if_neg this]⟩

end Sys2Proof.Machine
end

