-- ==== Sys2Proof/Laws/Host.lean ====
section
/-! SUPPORT. What the host's operations leave in each field of State, by `rfl`, and what each one that can be refused
answers (60_exceptions.md R185, R190, R193, R195). -/

namespace Sys2Proof.Machine

variable (s : State)

/-! `supplyRandom` -/

@[simp] theorem State.supplyRandom_v (r : Byte) : (s.supplyRandom r).v = s.v := rfl
@[simp] theorem State.supplyRandom_pc (r : Byte) : (s.supplyRandom r).pc = s.pc := rfl
@[simp] theorem State.supplyRandom_i (r : Byte) : (s.supplyRandom r).i = s.i := rfl
@[simp] theorem State.supplyRandom_sp (r : Byte) : (s.supplyRandom r).sp = s.sp := rfl
@[simp] theorem State.supplyRandom_stack (r : Byte) : (s.supplyRandom r).stack = s.stack := rfl
@[simp] theorem State.supplyRandom_mem (r : Byte) : (s.supplyRandom r).mem = s.mem := rfl
@[simp] theorem State.supplyRandom_fb (r : Byte) : (s.supplyRandom r).fb = s.fb := rfl
@[simp] theorem State.supplyRandom_key (r : Byte) : (s.supplyRandom r).key = s.key := rfl
@[simp] theorem State.supplyRandom_dt (r : Byte) : (s.supplyRandom r).dt = s.dt := rfl
@[simp] theorem State.supplyRandom_st (r : Byte) : (s.supplyRandom r).st = s.st := rfl
@[simp] theorem State.supplyRandom_fault (r : Byte) : (s.supplyRandom r).fault = s.fault := rfl
@[simp] theorem State.supplyRandom_kwait (r : Byte) : (s.supplyRandom r).kwait = s.kwait := rfl
@[simp] theorem State.supplyRandom_params (r : Byte) : (s.supplyRandom r).params = s.params := rfl
@[simp] theorem State.supplyRandom_randomIn (r : Byte) : (s.supplyRandom r).randomIn = [r] := rfl
@[simp] theorem State.supplyRandom_draws (r : Byte) : (s.supplyRandom r).draws = s.draws := rfl

/-! `dropSupply` -/

@[simp] theorem State.dropSupply_v : (s.dropSupply).v = s.v := rfl
@[simp] theorem State.dropSupply_pc : (s.dropSupply).pc = s.pc := rfl
@[simp] theorem State.dropSupply_i : (s.dropSupply).i = s.i := rfl
@[simp] theorem State.dropSupply_sp : (s.dropSupply).sp = s.sp := rfl
@[simp] theorem State.dropSupply_stack : (s.dropSupply).stack = s.stack := rfl
@[simp] theorem State.dropSupply_mem : (s.dropSupply).mem = s.mem := rfl
@[simp] theorem State.dropSupply_fb : (s.dropSupply).fb = s.fb := rfl
@[simp] theorem State.dropSupply_key : (s.dropSupply).key = s.key := rfl
@[simp] theorem State.dropSupply_dt : (s.dropSupply).dt = s.dt := rfl
@[simp] theorem State.dropSupply_st : (s.dropSupply).st = s.st := rfl
@[simp] theorem State.dropSupply_fault : (s.dropSupply).fault = s.fault := rfl
@[simp] theorem State.dropSupply_kwait : (s.dropSupply).kwait = s.kwait := rfl
@[simp] theorem State.dropSupply_params : (s.dropSupply).params = s.params := rfl
@[simp] theorem State.dropSupply_randomIn : (s.dropSupply).randomIn = [] := rfl
@[simp] theorem State.dropSupply_draws : (s.dropSupply).draws = s.draws := rfl

/-! `tickTimers` -/

@[simp] theorem State.tickTimers_v : s.tickTimers.1.v = s.v := rfl
@[simp] theorem State.tickTimers_pc : s.tickTimers.1.pc = s.pc := rfl
@[simp] theorem State.tickTimers_i : s.tickTimers.1.i = s.i := rfl
@[simp] theorem State.tickTimers_sp : s.tickTimers.1.sp = s.sp := rfl
@[simp] theorem State.tickTimers_stack : s.tickTimers.1.stack = s.stack := rfl
@[simp] theorem State.tickTimers_mem : s.tickTimers.1.mem = s.mem := rfl
@[simp] theorem State.tickTimers_fb : s.tickTimers.1.fb = s.fb := rfl
@[simp] theorem State.tickTimers_key : s.tickTimers.1.key = s.key := rfl
@[simp] theorem State.tickTimers_dt : s.tickTimers.1.dt = (if s.dt = 0 then s.dt else s.dt - 1) := rfl
@[simp] theorem State.tickTimers_st : s.tickTimers.1.st = (if s.st = 0 then s.st else s.st - 1) := rfl
@[simp] theorem State.tickTimers_fault : s.tickTimers.1.fault = s.fault := rfl
@[simp] theorem State.tickTimers_kwait : s.tickTimers.1.kwait = s.kwait := rfl
@[simp] theorem State.tickTimers_params : s.tickTimers.1.params = s.params := rfl
@[simp] theorem State.tickTimers_randomIn : s.tickTimers.1.randomIn = s.randomIn := rfl
@[simp] theorem State.tickTimers_draws : s.tickTimers.1.draws = s.draws := rfl

/-! ### Operations that can be refused -/

/-- A program that fits is written from `ENTRY` on (R193). -/
theorem State.loadProgram_of_fits {bytes : List Byte} (h : bytes.length ≤ 3584) :
    s.loadProgram bytes = some (s.writeBytes Config.entry bytes) := by
  have : ¬ Config.memSize < Config.entry + bytes.length := by simp only [Config.memSize, Config.entry]; omega
  simp only [State.loadProgram, this, if_false]

/-- A program that does not fit is refused (R193). -/
theorem State.loadProgram_of_too_large {bytes : List Byte} (h : 3584 < bytes.length) :
    s.loadProgram bytes = none := by
  have : Config.memSize < Config.entry + bytes.length := by simp only [Config.memSize, Config.entry]; omega
  simp only [State.loadProgram, this, if_true]

/-- A key of the keypad is set (R195). -/
theorem State.setKey_of_lt {k : Nat} (h : k < 16) (down : Bool) :
    s.setKey k down = some { s with key := s.key.set k down h } := by
  simp only [State.setKey, h, dite_true]

/-- Another key index is refused (R195). -/
theorem State.setKey_of_ge {k : Nat} (h : 16 ≤ k) (down : Bool) : s.setKey k down = none := by
  have : ¬ k < 16 := by omega
  simp only [State.setKey, this, dite_false]

/-- The whole operation `load`, answered (R190, R193). -/
theorem hostOp_load_of_fits {bytes : List Byte} (h : bytes.length ≤ 3584) :
    hostOp (.load bytes) s = .next (s.writeBytes Config.entry bytes, .ok) := by
  simp only [hostOp, State.loadProgram_of_fits s h]

/-- The whole operation `load`, refused. -/
theorem hostOp_load_of_too_large {bytes : List Byte} (h : 3584 < bytes.length) :
    hostOp (.load bytes) s = .next (s, .loadTooLarge) := by
  simp only [hostOp, State.loadProgram_of_too_large s h]

/-- The whole operation `set_key`, answered (R190, R195). -/
theorem hostOp_setKey_of_lt {k : Nat} (h : k < 16) (down : Bool) :
    hostOp (.setKey k down) s = .next ({ s with key := s.key.set k down h }, .ok) := by
  simp only [hostOp, State.setKey_of_lt s h]

/-- The whole operation `set_key`, refused. -/
theorem hostOp_setKey_of_ge {k : Nat} (h : 16 ≤ k) (down : Bool) :
    hostOp (.setKey k down) s = .next (s, .keyIndexInvalid) := by
  simp only [hostOp, State.setKey_of_ge s h]

/-- The whole operation `step`, from the step it performs (R190). -/
theorem hostOp_step_of_step {t : State} {r : Byte} (h : step (s.supplyRandom r) = .next t) :
    hostOp (.step r) s = .next (t.dropSupply, t.stepReply) := by
  simp only [hostOp, State.hostStep, h]

/-- The byte supplied is the one the step's CXNN takes (44_alu.md R146). -/
@[simp] theorem State.supplyRandom_randomByte (r : Byte) : (s.supplyRandom r).randomByte = r := rfl

end Sys2Proof.Machine
end

