-- ==== Sys2Proof/Laws/PerInstr.lean ====
section
/-! SUPPORT. The family EncodedInItsRow: an instruction's word has the fixed bits of one row of the dispatch table, the row's
`OPSET` entry is the instruction's, and the row builds the instruction back (30_encoding.md R75). -/

namespace Sys2Proof.Laws.EncodedInItsRow

/-- A row of the dispatch table that the word of `i` selects and that builds `i` from it. -/
def Statement (i : Instr) : Prop :=
  ∃ r ∈ dispatchTable, r.canonicalOnly = i.canonicalOnly ∧ encode i &&& r.mask = r.pattern ∧ r.build (encode i) = i

/-- The same by the row's place in the table. -/
theorem of_row {i : Instr} {r : Row} (k : Nat) (hk : dispatchTable[k]? = some r)
    (hc : r.canonicalOnly = i.canonicalOnly) (hm : encode i &&& r.mask = r.pattern)
    (hb : r.build (encode i) = i) : Statement i :=
  ⟨r, List.mem_of_getElem? hk, hc, hm, hb⟩

theorem cls : Statement .cls :=
  of_row 0 rfl rfl (by decide) rfl

theorem ret : Statement .ret :=
  of_row 1 rfl rfl (by decide) rfl

theorem nop : Statement .nop :=
  of_row 2 rfl rfl (by decide) rfl

theorem jp (nnn : Addr12) : Statement (.jp nnn) :=
  of_row 3 rfl rfl (by simp [encode]; try decide) (by simp [encode])

theorem call (nnn : Addr12) : Statement (.call nnn) :=
  of_row 4 rfl rfl (by simp [encode]; try decide) (by simp [encode])

theorem seImm (x : Reg) (nn : Byte) : Statement (.seImm x nn) :=
  of_row 5 rfl rfl (by simp [encode]; try decide) (by simp [encode])

theorem sneImm (x : Reg) (nn : Byte) : Statement (.sneImm x nn) :=
  of_row 6 rfl rfl (by simp [encode]; try decide) (by simp [encode])

theorem seReg (x : Reg) (y : Reg) : Statement (.seReg x y) :=
  of_row 7 rfl rfl (by simp [encode]; try decide) (by simp [encode])

theorem ldImm (x : Reg) (nn : Byte) : Statement (.ldImm x nn) :=
  of_row 8 rfl rfl (by simp [encode]; try decide) (by simp [encode])

theorem addImm (x : Reg) (nn : Byte) : Statement (.addImm x nn) :=
  of_row 9 rfl rfl (by simp [encode]; try decide) (by simp [encode])

theorem ldReg (x : Reg) (y : Reg) : Statement (.ldReg x y) :=
  of_row 10 rfl rfl (by simp [encode]; try decide) (by simp [encode])

theorem or (x : Reg) (y : Reg) : Statement (.or x y) :=
  of_row 11 rfl rfl (by simp [encode]; try decide) (by simp [encode])

theorem and (x : Reg) (y : Reg) : Statement (.and x y) :=
  of_row 12 rfl rfl (by simp [encode]; try decide) (by simp [encode])

theorem xor (x : Reg) (y : Reg) : Statement (.xor x y) :=
  of_row 13 rfl rfl (by simp [encode]; try decide) (by simp [encode])

theorem addReg (x : Reg) (y : Reg) : Statement (.addReg x y) :=
  of_row 14 rfl rfl (by simp [encode]; try decide) (by simp [encode])

theorem sub (x : Reg) (y : Reg) : Statement (.sub x y) :=
  of_row 15 rfl rfl (by simp [encode]; try decide) (by simp [encode])

theorem shr (x : Reg) (y : Reg) : Statement (.shr x y) :=
  of_row 16 rfl rfl (by simp [encode]; try decide) (by simp [encode])

theorem subn (x : Reg) (y : Reg) : Statement (.subn x y) :=
  of_row 17 rfl rfl (by simp [encode]; try decide) (by simp [encode])

theorem shl (x : Reg) (y : Reg) : Statement (.shl x y) :=
  of_row 18 rfl rfl (by simp [encode]; try decide) (by simp [encode])

theorem sneReg (x : Reg) (y : Reg) : Statement (.sneReg x y) :=
  of_row 19 rfl rfl (by simp [encode]; try decide) (by simp [encode])

theorem ldI (nnn : Addr12) : Statement (.ldI nnn) :=
  of_row 20 rfl rfl (by simp [encode]; try decide) (by simp [encode])

theorem jpV0 (nnn : Addr12) : Statement (.jpV0 nnn) :=
  of_row 21 rfl rfl (by simp [encode]; try decide) (by simp [encode])

theorem rnd (x : Reg) (nn : Byte) : Statement (.rnd x nn) :=
  of_row 22 rfl rfl (by simp [encode]; try decide) (by simp [encode])

theorem drw (x : Reg) (y : Reg) (n : Nibble) : Statement (.drw x y n) :=
  of_row 23 rfl rfl (by simp [encode]; try decide) (by simp [encode])

theorem skp (x : Reg) : Statement (.skp x) :=
  of_row 24 rfl rfl (by simp [encode]; try decide) (by simp [encode])

theorem sknp (x : Reg) : Statement (.sknp x) :=
  of_row 25 rfl rfl (by simp [encode]; try decide) (by simp [encode])

theorem ldVxDt (x : Reg) : Statement (.ldVxDt x) :=
  of_row 26 rfl rfl (by simp [encode]; try decide) (by simp [encode])

theorem ldVxK (x : Reg) : Statement (.ldVxK x) :=
  of_row 27 rfl rfl (by simp [encode]; try decide) (by simp [encode])

theorem ldDtVx (x : Reg) : Statement (.ldDtVx x) :=
  of_row 28 rfl rfl (by simp [encode]; try decide) (by simp [encode])

theorem ldStVx (x : Reg) : Statement (.ldStVx x) :=
  of_row 29 rfl rfl (by simp [encode]; try decide) (by simp [encode])

theorem addIVx (x : Reg) : Statement (.addIVx x) :=
  of_row 30 rfl rfl (by simp [encode]; try decide) (by simp [encode])

theorem ldFVx (x : Reg) : Statement (.ldFVx x) :=
  of_row 31 rfl rfl (by simp [encode]; try decide) (by simp [encode])

theorem ldBVx (x : Reg) : Statement (.ldBVx x) :=
  of_row 32 rfl rfl (by simp [encode]; try decide) (by simp [encode])

theorem ldMemVx (x : Reg) : Statement (.ldMemVx x) :=
  of_row 33 rfl rfl (by simp [encode]; try decide) (by simp [encode])

theorem ldVxMem (x : Reg) : Statement (.ldVxMem x) :=
  of_row 34 rfl rfl (by simp [encode]; try decide) (by simp [encode])

end Sys2Proof.Laws.EncodedInItsRow
end

