-- ==== Sys2Proof/Tests/Slice0.lean ====
section
/-! SUPPORT. Tests: well-formedness, words written out from 30_encoding.md R75, one step per row of 95_test_vectors.md
(each test names its table TV<n>), and a state for the hypotheses of each obligation. -/

namespace Sys2Proof.Tests

open Sys2Proof Sys2Proof.Machine

/-! ## Helpers -/

/-- `o` is a next state with `p`. -/
def nextIs (o : Result) (p : State → Bool) : Bool :=
  match o with
  | .next t => p t
  | .fault _ => false
  | .refused _ => false

/-- One step of the word `w` placed where `s` fetches. -/
def run (w : Nat) (s : State) : Result := step (s.withFetchWord 16 w)

/-- Reset with three registers set. -/
def regs (a b c : Byte) : State := ((State.reset.setV 0 a).setV 1 b).setV 2 c

/-- Reset with `V[15]` and `V[1]` set. -/
def flagRegs (f b : Byte) : State := (State.reset.setV VF f).setV 1 b

/-- Reset with one key down. -/
def keyDown (k : Fin 16) : State := { State.reset with key := State.reset.key.set k true k.isLt }

/-- Reset with other parameters. -/
def withParams (o : Opset) (k : Keywait) (inc : Bool) : State :=
  State.construct { opset := o, keywait := k, ldstIncrementsI := inc, font := Config.defaultFont } 0

/-- Reset with another stack pointer. -/
def atSp (n : Nat) : State := { State.reset with sp := BitVec.ofNat 16 n }

/-- Reset with another program counter. -/
def atPc (n : Nat) : State := State.reset.setPc (BitVec.ofNat 16 n)

/-- Reset with another `I`. -/
def atI (n : Nat) : State := State.reset.setI (BitVec.ofNat 16 n)

/-- Reset with the sprite bytes of TV15 at 0x300 and `I` there. -/
def sprite : State := (atI 0x300).writeBytes 0x300 [0xF0, 0x81]

/-- The cells lit in row `y`. -/
def litRow (s : State) (y : Fin 32) : List Nat :=
  ((List.finRange 64).filter fun x => Framebuffer.get s.fb x y).map Fin.val

/-- The record latched. -/
def record (kind : FaultKind) (pc word : Nat) (detail : Option Nat) : Option FaultRecord :=
  some ⟨kind, BitVec.ofNat 16 pc, some (BitVec.ofNat 16 word), detail⟩

/-- The invariant holds of a state that differs from a reset one in what the invariant does not read, or keeps it. -/
theorem inv_of {s : State} (hm : Memory.wf s.params.font s.mem = true) (hs : s.sp.toNat ≤ 16)
    (hk : s.kwait = none) (hf : s.fault = none) : s.Inv :=
  ⟨hm, hs, fun _ => hk, fun f h => by rw [hf] at h; cases h⟩

/-! ## Well-formedness: one check, OPSET (00_scope.md R5), refused of each of its ten instructions -/

theorem test_wf_refuses_sknp : (Instr.sknp 3).wellFormed .snapshot = false := by decide
theorem test_wf_refuses_ldVxDt : (Instr.ldVxDt 3).wellFormed .snapshot = false := by decide
theorem test_wf_refuses_ldVxK : (Instr.ldVxK 3).wellFormed .snapshot = false := by decide
theorem test_wf_refuses_ldDtVx : (Instr.ldDtVx 3).wellFormed .snapshot = false := by decide
theorem test_wf_refuses_ldStVx : (Instr.ldStVx 3).wellFormed .snapshot = false := by decide
theorem test_wf_refuses_addIVx : (Instr.addIVx 3).wellFormed .snapshot = false := by decide
theorem test_wf_refuses_ldFVx : (Instr.ldFVx 3).wellFormed .snapshot = false := by decide
theorem test_wf_refuses_ldBVx : (Instr.ldBVx 3).wellFormed .snapshot = false := by decide
theorem test_wf_refuses_ldMemVx : (Instr.ldMemVx 3).wellFormed .snapshot = false := by decide
theorem test_wf_refuses_ldVxMem : (Instr.ldVxMem 3).wellFormed .snapshot = false := by decide
theorem test_wf_accepts_skp : (Instr.skp 3).wellFormed .snapshot = true := by decide
theorem test_wf_accepts_canonical : (Instr.ldVxMem 3).wellFormed .canonical = true := by decide

/-! ## Decoding: one word per constructor, bit by bit from R75's patterns -/

theorem test_decode_cls : decode .canonical 0b0000000011100000#16 = some .cls := by decide
theorem test_decode_ret : decode .canonical 0b0000000011101110#16 = some .ret := by decide
theorem test_decode_nop : decode .canonical 0b0000000000000000#16 = some .nop := by decide
theorem test_decode_jp : decode .canonical 0b0001101010111100#16 = some (.jp 0xABC) := by decide
theorem test_decode_call : decode .canonical 0b0010010000000001#16 = some (.call 0x401) := by decide
theorem test_decode_seImm : decode .canonical 0b0011101001000010#16 = some (.seImm 10 0x42) := by decide
theorem test_decode_sneImm : decode .canonical 0b0100101001000010#16 = some (.sneImm 10 0x42) := by decide
theorem test_decode_seReg : decode .canonical 0b0101000110010000#16 = some (.seReg 1 9) := by decide
theorem test_decode_ldImm : decode .canonical 0b0110101001000010#16 = some (.ldImm 10 0x42) := by decide
theorem test_decode_addImm : decode .canonical 0b0111001100000010#16 = some (.addImm 3 2) := by decide
theorem test_decode_ldReg : decode .canonical 0b1000000110010000#16 = some (.ldReg 1 9) := by decide
theorem test_decode_or : decode .canonical 0b1000000110010001#16 = some (.or 1 9) := by decide
theorem test_decode_and : decode .canonical 0b1000000110010010#16 = some (.and 1 9) := by decide
theorem test_decode_xor : decode .canonical 0b1000000110010011#16 = some (.xor 1 9) := by decide
theorem test_decode_addReg : decode .canonical 0b1000000110010100#16 = some (.addReg 1 9) := by decide
theorem test_decode_sub : decode .canonical 0b1000000110010101#16 = some (.sub 1 9) := by decide
theorem test_decode_shr : decode .canonical 0b1000000110010110#16 = some (.shr 1 9) := by decide
theorem test_decode_subn : decode .canonical 0b1000000110010111#16 = some (.subn 1 9) := by decide
theorem test_decode_shl : decode .canonical 0b1000000110011110#16 = some (.shl 1 9) := by decide
theorem test_decode_sneReg : decode .canonical 0b1001000110010000#16 = some (.sneReg 1 9) := by decide
theorem test_decode_ldI : decode .canonical 0b1010000100100011#16 = some (.ldI 0x123) := by decide
theorem test_decode_jpV0 : decode .canonical 0b1011001100000000#16 = some (.jpV0 0x300) := by decide
theorem test_decode_rnd : decode .canonical 0b1100000111110000#16 = some (.rnd 1 0xF0) := by decide
theorem test_decode_drw : decode .canonical 0b1101000110010101#16 = some (.drw 1 9 5) := by decide
theorem test_decode_skp : decode .canonical 0b1110001010011110#16 = some (.skp 2) := by decide
theorem test_decode_sknp : decode .canonical 0b1110001010100001#16 = some (.sknp 2) := by decide
theorem test_decode_ldVxDt : decode .canonical 0b1111001100000111#16 = some (.ldVxDt 3) := by decide
theorem test_decode_ldVxK : decode .canonical 0b1111001100001010#16 = some (.ldVxK 3) := by decide
theorem test_decode_ldDtVx : decode .canonical 0b1111001100010101#16 = some (.ldDtVx 3) := by decide
theorem test_decode_ldStVx : decode .canonical 0b1111001100011000#16 = some (.ldStVx 3) := by decide
theorem test_decode_addIVx : decode .canonical 0b1111001100011110#16 = some (.addIVx 3) := by decide
theorem test_decode_ldFVx : decode .canonical 0b1111001100101001#16 = some (.ldFVx 3) := by decide
theorem test_decode_ldBVx : decode .canonical 0b1111001100110011#16 = some (.ldBVx 3) := by decide
theorem test_decode_ldMemVx : decode .canonical 0b1111001101010101#16 = some (.ldMemVx 3) := by decide
theorem test_decode_ldVxMem : decode .canonical 0b1111001101100101#16 = some (.ldVxMem 3) := by decide
theorem test_decode_snapshot_lacks_FX33 : decode .snapshot 0b1111000000110011#16 = none := by decide
theorem test_decodeTableWord_refuses_5121 : decodeTableWord 16 0x5121 = none := by decide

/-! ## Fetch and the step (TV6) -/

theorem test_fetch_big_endian :
    nextIs (step (State.reset.writeBytes 0x200 [0x60, 0x05]))
      (fun t => t.getV 0 = 5 && t.pc = 0x202) = true := by decide
theorem test_fetch_odd_pc :
    nextIs (step ((atPc 0x201).writeBytes 0x201 [0x61, 0x07]))
      (fun t => t.getV 1 = 7 && t.pc = 0x203) = true := by decide
theorem test_fetch_last_word : nextIs (step (atPc 0xFFE)) (fun t => t.pc = 0x1000 && t.fault = none) = true := by
  decide
theorem test_fetch_FFF_faults :
    nextIs (step (atPc 0xFFF))
      (fun t => t.fault = some ⟨.memoryOutOfBounds, 0xFFF, none, some 0x1000⟩ && t.pc = 0xFFF) = true := by decide
theorem test_unknown_opcode :
    nextIs (run 0x8008 State.reset) (fun t => t.fault = record .unknownOpcode 0x200 0x8008 none) = true := by
  decide
theorem test_snapshot_F033_is_unknown :
    nextIs (run 0xF033 (withParams .snapshot .press false))
      (fun t => t.fault = record .unknownOpcode 0x200 0xF033 none) = true := by decide

/-! ## Control flow (TV7) -/

theorem test_nop : nextIs (run 0x0000 State.reset) (fun t => t = State.reset.setPc 0x202) = true := by decide
theorem test_jp : nextIs (run 0x1ABC State.reset) (fun t => t.pc = 0xABC) = true := by decide
theorem test_call :
    nextIs (run 0x2400 (atSp 15)) (fun t => t.stack[15] = 0x202 && t.sp = 16 && t.pc = 0x400) = true := by decide
theorem test_call_overflow :
    nextIs (run 0x2400 (atSp 16)) (fun t => t.fault = record .stackOverflow 0x200 0x2400 none && t.sp = 16)
      = true := by decide
theorem test_ret :
    nextIs (run 0x00EE { atSp 1 with stack := State.reset.stack.set 0 0x202 })
      (fun t => t.sp = 0 && t.pc = 0x202 && t.stack[0] = 0x202) = true := by decide
theorem test_ret_underflow :
    nextIs (run 0x00EE State.reset) (fun t => t.fault = record .stackUnderflow 0x200 0x00EE none) = true := by
  decide
theorem test_jpV0 : nextIs (run 0xBFFF (regs 0xFF 0 0)) (fun t => t.pc = 0x10FE) = true := by decide

/-! ## Skips (TV8) -/

theorem test_seImm_taken : nextIs (run 0x3005 (regs 5 0 0)) (fun t => t.pc = 0x204) = true := by decide
theorem test_seImm_not_taken : nextIs (run 0x3006 (regs 5 0 0)) (fun t => t.pc = 0x202) = true := by decide
theorem test_sneImm_taken : nextIs (run 0x4006 (regs 5 0 0)) (fun t => t.pc = 0x204) = true := by decide
theorem test_sneImm_not_taken : nextIs (run 0x4005 (regs 5 0 0)) (fun t => t.pc = 0x202) = true := by decide
theorem test_seReg_taken : nextIs (run 0x5010 (regs 7 7 0)) (fun t => t.pc = 0x204) = true := by decide
theorem test_seReg_not_taken : nextIs (run 0x5010 (regs 7 8 0)) (fun t => t.pc = 0x202) = true := by decide
theorem test_sneReg_taken : nextIs (run 0x9010 (regs 7 8 0)) (fun t => t.pc = 0x204) = true := by decide
theorem test_sneReg_not_taken : nextIs (run 0x9010 (regs 7 7 0)) (fun t => t.pc = 0x202) = true := by decide
theorem test_skp_down : nextIs (run 0xE29E ((keyDown 3).setV 2 3)) (fun t => t.pc = 0x204) = true := by decide
theorem test_skp_out_of_range :
    nextIs (run 0xE29E (regs 0 0 0x10))
      (fun t => t.fault = record .keypadIndexOutOfRange 0x200 0xE29E (some 0x10)) = true := by decide
theorem test_sknp_down : nextIs (run 0xE2A1 ((keyDown 3).setV 2 3)) (fun t => t.pc = 0x202) = true := by decide
theorem test_sknp_up : nextIs (run 0xE2A1 (regs 0 0 3)) (fun t => t.pc = 0x204) = true := by decide

/-! ## Loads and arithmetic (TV9 to TV14) -/

theorem test_ldImm : nextIs (run 0x6A42 State.reset) (fun t => t.getV 10 = 0x42) = true := by decide
theorem test_addImm_no_flag :
    nextIs (run 0x71F0 (flagRegs 1 0x10)) (fun t => t.getV 1 = 0 && t.getV VF = 1) = true := by decide
theorem test_addImm_on_VF : nextIs (run 0x7F01 (flagRegs 0x80 0)) (fun t => t.getV VF = 0x81) = true := by decide
theorem test_ldReg : nextIs (run 0x8010 (regs 0 0x9C 0)) (fun t => t.getV 0 = 0x9C) = true := by decide
theorem test_or :
    nextIs (run 0x8011 ((regs 0x0F 0xF0 0).setV VF 0x55)) (fun t => t.getV 0 = 0xFF && t.getV VF = 0x55)
      = true := by decide
theorem test_and :
    nextIs (run 0x8012 ((regs 0x0F 0xF0 0).setV VF 0x55)) (fun t => t.getV 0 = 0x00 && t.getV VF = 0x55)
      = true := by decide
theorem test_xor_self :
    nextIs (run 0x8003 ((regs 0x0F 0xF0 0).setV VF 0x55)) (fun t => t.getV 0 = 0x00 && t.getV VF = 0x55)
      = true := by decide
theorem test_xor_on_VF :
    nextIs (run 0x8F03 ((regs 0x0F 0 0).setV VF 0xFF)) (fun t => t.getV VF = 0xF0) = true := by decide
theorem test_addReg_carry :
    nextIs (run 0x8014 (regs 0xFF 0xFF 0)) (fun t => t.getV 0 = 0xFE && t.getV VF = 1) = true := by decide
theorem test_addReg_flag_wins : nextIs (run 0x8F14 (flagRegs 0xFF 1)) (fun t => t.getV VF = 1) = true := by decide
theorem test_sub_borrow :
    nextIs (run 0x8015 (regs 3 5 0)) (fun t => t.getV 0 = 0xFE && t.getV VF = 0) = true := by decide
theorem test_sub_equal :
    nextIs (run 0x8015 (regs 5 5 0)) (fun t => t.getV 0 = 0 && t.getV VF = 1) = true := by decide
theorem test_shr :
    nextIs (run 0x8016 (regs 4 3 0)) (fun t => t.getV 0 = 2 && t.getV VF = 0) = true := by decide
theorem test_shr_flag_wins : nextIs (run 0x8F06 (flagRegs 3 0)) (fun t => t.getV VF = 1) = true := by decide
theorem test_subn :
    nextIs (run 0x8017 (regs 3 5 0)) (fun t => t.getV 0 = 2 && t.getV VF = 1) = true := by decide
theorem test_subn_borrow :
    nextIs (run 0x8017 (regs 0xFF 0 0)) (fun t => t.getV 0 = 1 && t.getV VF = 0) = true := by decide
theorem test_shl :
    nextIs (run 0x800E (regs 0x81 0 0)) (fun t => t.getV 0 = 2 && t.getV VF = 1) = true := by decide
theorem test_shl_flag_wins : nextIs (run 0x8F0E (flagRegs 0x80 0)) (fun t => t.getV VF = 1) = true := by decide
theorem test_rnd : nextIs (run 0xC0F0 (State.reset.supplyRandom 0xAB)) (fun t => t.getV 0 = 0xA0) = true := by
  decide

/-! ## Display (TV15) -/

theorem test_cls :
    nextIs (run 0x00E0 ({ State.reset with fb := Framebuffer.set State.reset.fb 3 7 true }.setV VF 0x55))
      (fun t => litRow t 7 = [] && t.getV VF = 0x55) = true := by decide
theorem test_drw_wraps :
    nextIs (run 0xD011 ((sprite.setV 0 62).setV 1 31))
      (fun t => litRow t 31 = [0, 1, 62, 63] && litRow t 0 = [] && t.getV VF = 0) = true := by decide
theorem test_drw_collision :
    nextIs (run 0xD012 { sprite with fb := Framebuffer.set sprite.fb 3 0 true })
      (fun t => litRow t 0 = [0, 1, 2] && litRow t 1 = [0, 7] && t.getV VF = 1) = true := by decide

/-! ## Index and memory (TV16) -/

theorem test_ldI : nextIs (run 0xA123 State.reset) (fun t => t.i = 0x123) = true := by decide
theorem test_addIVx : nextIs (run 0xF01E ((atI 0xFFFF).setV 0 2)) (fun t => t.i = 1) = true := by decide
theorem test_addIVx_no_flag :
    nextIs (run 0xF01E ((atI 0xFFF).setV 0 1)) (fun t => t.i = 0x1000 && t.getV VF = 0) = true := by decide
theorem test_ldFVx : nextIs (run 0xF129 (regs 0 0xF 0)) (fun t => t.i = 0x4B) = true := by decide
theorem test_ldFVx_out_of_range :
    nextIs (run 0xF129 (regs 0 0x10 0))
      (fun t => t.fault = record .fontDigitOutOfRange 0x200 0xF129 (some 0x10)) = true := by decide
theorem test_ldBVx :
    nextIs (run 0xF033 ((atI 0x300).setV 0 254))
      (fun t => t.readByte 0x300 = 2 && t.readByte 0x301 = 5 && t.readByte 0x302 = 4) = true := by decide
theorem test_ldBVx_out_of_bounds :
    nextIs (run 0xF033 ((atI 0xFFE).setV 0 5))
      (fun t => t.fault = record .memoryOutOfBounds 0x200 0xF033 (some 0x1000) && t.readByte 0xFFF = 0)
      = true := by decide
theorem test_ldMemVx :
    nextIs (run 0xF255 ((regs 1 2 3).setI 0x300))
      (fun t => t.readByte 0x300 = 1 && t.readByte 0x301 = 2 && t.readByte 0x302 = 3 && t.i = 0x300)
      = true := by decide
theorem test_ldMemVx_increments :
    nextIs (run 0xF255 ((withParams .canonical .press true).setI 0x300)) (fun t => t.i = 0x303) = true := by
  decide
theorem test_ldVxMem :
    nextIs (run 0xF265 ((atI 0x300).writeBytes 0x300 [2, 5, 4]))
      (fun t => t.getV 0 = 2 && t.getV 1 = 5 && t.getV 2 = 4 && t.i = 0x300) = true := by decide
theorem test_ldVxMem_loads_VF :
    nextIs (run 0xFF65 ((atI 0x300).writeBytes 0x30F [0x77])) (fun t => t.getV VF = 0x77) = true := by decide

/-! ## Timers and keypad (TV17) -/

theorem test_ldVxDt : nextIs (run 0xF307 (State.reset.setDt 0x2A)) (fun t => t.getV 3 = 0x2A) = true := by decide
theorem test_ldDtVx : nextIs (run 0xF315 (State.reset.setV 3 0x3C)) (fun t => t.dt = 0x3C) = true := by decide
theorem test_ldStVx : nextIs (run 0xF318 (State.reset.setV 3 1)) (fun t => t.st = 1) = true := by decide
theorem test_ldVxK_retry : nextIs (run 0xF50A State.reset) (fun t => t.pc = 0x200 && t.getV 5 = 0) = true := by
  decide
theorem test_ldVxK_press :
    nextIs (run 0xF50A (keyDown 7)) (fun t => t.getV 5 = 7 && t.pc = 0x202) = true := by decide

/-! ## The host's operations (TV18, TV19) and reset -/

theorem test_tick :
    ((State.reset.setDt 5).setSt 1).tickTimers = ((State.reset.setDt 4).setSt 0, true) := by decide
theorem test_tick_at_zero : State.reset.tickTimers = (State.reset, false) := by decide
theorem test_load :
    (State.reset.loadProgram [0x60, 0x05]).map (fun t => t.readByte 0x201) = some 5 := by decide
theorem test_setKey : State.reset.setKey 15 true = some (keyDown 15) := by decide
theorem test_setKey_out_of_range : State.reset.setKey 16 true = none := by decide
theorem test_reset_memory : Memory.wf State.reset.params.font State.reset.mem = true := by decide
theorem test_reset_font_A : State.reset.readByte 0x32 = 0xF0 ∧ State.reset.readByte 0x33 = 0x90 := by decide
theorem test_reset_clears_fault :
    (State.reset.latch .stackUnderflow none none).resetInPlace = State.reset := by decide

/-! ## Witnesses: a state and operands that meet the hypotheses of each obligation, clause by clause -/

theorem witness_DecodeOfEncodeIsTheInstruction :
    (Instr.drw 15 0 15).wellFormed .snapshot = true ∧ (Instr.ldVxMem 15).wellFormed .canonical = true := by decide
theorem witness_EncodeOfDecodeIsTheWord :
    decode .snapshot 0xD0FF = some (.drw 0 15 15) ∧ decode .canonical 0xFF65 = some (.ldVxMem 15) := by decide
theorem witness_NoWordSelectsTwoRows :
    ∃ r, dispatchTable[0]? = some r ∧ r.selects .snapshot 0x00E0 = true := ⟨_, rfl, by decide⟩
theorem witness_StepRunsTheDecodedInstruction :
    let s := (atPc 0xFFE).withFetchWord 16 0x6005
    s.fault = none ∧ s.pc.toNat + 1 < 4096 ∧
      decode s.params.opset (s.readByte s.pc.toNat ++ s.readByte (s.pc.toNat + 1)) = some (.ldImm 0 5) := by decide
theorem witness_FetchPastMemoryFaults :
    ((atPc 0xFFF).fault = none ∧ 0xFFF ≤ (atPc 0xFFF).pc.toNat) ∧
      (atPc 0xFFFF).fault = none ∧ 0xFFF ≤ (atPc 0xFFFF).pc.toNat := by decide
theorem witness_UnknownOpcodeFaults :
    let s := (atPc 0xFFE).withFetchWord 16 0x5121
    s.fault = none ∧ s.pc.toNat + 1 < 4096 ∧
      decode s.params.opset (s.readByte s.pc.toNat ++ s.readByte (s.pc.toNat + 1)) = none := by decide
theorem witness_LatchedFaultIsSticky :
    (State.reset.latch .stackUnderflow (some 0x00EE) none).fault
      = some ⟨.stackUnderflow, 0x200, some 0x00EE, none⟩ ∧
    HostOp.load [0x60] ≠ .construct ∧ HostOp.load [0x60] ≠ .reset := by decide
theorem witness_FaultingStepIsPreciseAndAtomic :
    (atPc 0xFFF).fault = none ∧ nextIs (step (atPc 0xFFF)) (fun t => t.fault ≠ none) = true ∧
      (State.reset.withFetchWord 16 0x00EE).fault = none ∧
      nextIs (step (State.reset.withFetchWord 16 0x00EE)) (fun t => t.fault ≠ none) = true := by decide
theorem witness_InstructionRaisesOnlyItsOwnFault :
    nextIs (exec .ret (atSp 0)) (fun t => t.fault ≠ none) = true ∧
      nextIs (exec .ret (atSp 1)) (fun t => t.fault = none) = true := by decide

theorem witness_writers_inv : State.reset.Inv ∧ (sprite.setV 0 9).Inv :=
  ⟨inv_of rfl (by decide) rfl rfl, inv_of (by decide) (by decide) rfl rfl⟩
/-- Each piece of state is changed by an instruction the table lists for it. -/
theorem witness_EachStateElementHasOnlyItsWriters :
    let s := sprite.setV 0 9
    nextIs (exec (.ldImm 3 5) s) (fun t => t.getV 3 ≠ s.getV 3) = true ∧
    nextIs (exec (.jp 5) s) (fun t => t.pc ≠ s.pc + 2) = true ∧
    nextIs (exec .ret s) (fun t => t.pc ≠ s.pc + 2 && t.fault ≠ s.fault) = true ∧
    nextIs (exec (.ldI 5) s) (fun t => t.i ≠ s.i) = true ∧
    nextIs (exec (.call 5) s) (fun t => t.sp ≠ s.sp && t.stack ≠ s.stack) = true ∧
    nextIs (exec (.ldBVx 0) s) (fun t => t.readByte 0x302 ≠ s.readByte 0x302) = true ∧
    nextIs (exec (.drw 0 1 1) s) (fun t => t.fb ≠ s.fb) = true ∧
    nextIs (exec (.ldDtVx 0) s) (fun t => t.dt ≠ s.dt) = true ∧
    nextIs (exec (.ldStVx 0) s) (fun t => t.st ≠ s.st) = true ∧
    nextIs (exec (.rnd 0 0) s) (fun t => t.draws ≠ s.draws) = true := by decide
theorem witness_writers_kwait :
    nextIs (exec (.ldVxK 0) { withParams .canonical .pressRelease false with key := (keyDown 2).key })
      (fun t => t.kwait = some 2) = true := by decide

theorem witness_StepKeepsTheInvariant : State.reset.Inv ∧ nextIs (step State.reset) (fun _ => true) = true :=
  ⟨inv_of rfl (by decide) rfl rfl, by decide⟩
theorem witness_StepKeepsTheInvariant_full_stack :
    ((atSp 16).withFetchWord 16 0x2400).Inv ∧ nextIs (run 0x2400 (atSp 16)) (fun _ => true) = true :=
  ⟨inv_of (by decide) (by decide) rfl rfl, by decide⟩
theorem witness_StepAlwaysAnswersANextState : (atSp 16).Inv ∧ (sprite.setV 0 9).Inv :=
  ⟨inv_of rfl (by decide) rfl rfl, inv_of (by decide) (by decide) rfl rfl⟩
theorem witness_EveryHostScheduleKeepsTheInvariant :
    (atSp 16).Inv ∧ Reachable Config.defaultParams State.reset ∧ Reachable Config.defaultParams (keyDown 15) :=
  ⟨inv_of rfl (by decide) rfl rfl, .construct 0, .op (.setKey 15 true) (.construct 0) (reply := .ok) rfl⟩
theorem witness_PlacedWordIsTheNextInstruction :
    (atPc 0xFFE).Inv ∧ (atPc 0xFFE).fault = none ∧ (atPc 0xFFE).pc.toNat + 1 < 4096 ∧ (atPc 0xFFF).Inv ∧
      (Instr.ldVxMem 15).wellFormed State.reset.params.opset = true :=
  ⟨inv_of rfl (by decide) rfl rfl, rfl, by decide, inv_of rfl (by decide) rfl rfl, by decide⟩

theorem witness_Drw_in_bounds :
    ((15 : Nibble).toNat = 0 ∨ (atI 4081).i.toNat + (15 : Nibble).toNat ≤ 4096) ∧
      ((0 : Nibble).toNat = 0 ∨ (atI 0xFFFF).i.toNat + (0 : Nibble).toNat ≤ 4096) := by decide
theorem witness_Drw_out_of_bounds :
    (15 : Nibble).toNat ≠ 0 ∧ 4096 < (atI 4082).i.toNat + (15 : Nibble).toNat := by decide
/-- A covered cell that is lit, one that is not, and a cell that is not covered. -/
theorem witness_Drw_covers :
    sprite.spriteCovers 62 31 1 0 31 ∧ sprite.spriteCovers 0 0 2 7 1 ∧ ¬ sprite.spriteCovers 0 0 1 4 0 ∧
      Framebuffer.get (Framebuffer.set sprite.fb 0 31 true) 0 31 = true ∧
      Framebuffer.get sprite.fb 7 1 = false := by
  refine ⟨⟨0, by decide, 2, by decide, by decide⟩, ⟨1, by decide, 7, by decide, by decide⟩, ?_, by decide,
    by decide⟩
  rintro ⟨r, hr, c, hc, hb, hx, -⟩
  obtain rfl : r = 0 := Nat.lt_one_iff.1 hr
  obtain rfl : c = 4 := by simp at hx; omega
  revert hb
  decide
theorem witness_DrawingTwiceErases :
    (0 : Reg) ≠ VF ∧ (14 : Reg) ≠ VF ∧
      ((15 : Nibble).toNat = 0 ∨ (atI 4081).i.toNat + (15 : Nibble).toNat ≤ 4096) := by decide

theorem witness_CallPushesTheReturnAddress :
    (atSp 0).sp.toNat < 16 ∧ (atSp 15).sp.toNat < 16 ∧ (atSp 16).sp.toNat = 16 ∧ 16 < (atSp 17).sp.toNat := by decide
theorem witness_RetPopsIntoPc :
    (0 < (atSp 1).sp.toNat ∧ (atSp 1).sp.toNat ≤ 16) ∧ (0 < (atSp 16).sp.toNat ∧ (atSp 16).sp.toNat ≤ 16) ∧
      (atSp 0).sp.toNat = 0 ∧ 16 < (atSp 17).sp.toNat := by decide
theorem witness_NestedCallsAndReturnsComeBack :
    List.replicate 16 (0x300 : Addr12) ≠ [] ∧ (atSp 0).sp.toNat + (List.replicate 16 (0x300 : Addr12)).length ≤ 16 := by
  decide
theorem witness_KeySkips :
    ((regs 15 0 0).getV 0).toNat < 16 ∧ 16 ≤ ((regs 16 0 0).getV 0).toNat ∧ 16 ≤ ((regs 255 0 0).getV 0).toNat := by
  decide
theorem witness_RegisterSkips : (1 : Nibble) ≠ 0 ∧ (15 : Nibble) ≠ 0 := by decide
theorem witness_result_register_is_not_VF : (0 : Reg) ≠ VF ∧ (14 : Reg) ≠ VF := by decide

theorem witness_RndMasksOneRandomByte :
    (State.reset.supplyRandom 0xAB).randomIn = 0xAB :: [] ∧ State.reset.randomIn = [] := by decide
theorem witness_RandomByteReachesOnlyRnd_other :
    ∀ x nn, decode State.reset.params.opset State.reset.fetchWord ≠ some (.rnd x nn) := by
  have h : decode State.reset.params.opset State.reset.fetchWord = some .nop := by decide
  intro x nn
  rw [h]
  exact fun e => by cases e
theorem witness_RandomByteReachesOnlyRnd_rnd :
    let s := State.reset.withFetchWord 16 0xC00F
    s.fault = none ∧ s.pc.toNat + 1 < 4096 ∧ decode s.params.opset s.fetchWord = some (.rnd 0 0x0F) := by decide

theorem witness_LdFPointsAtTheGlyph :
    ((regs 15 0 0).getV 0).toNat ≤ 15 ∧ 15 < ((regs 16 0 0).getV 0).toNat := by decide
theorem witness_BcdStoresThreeDigits :
    Memory.wf Config.defaultFont (atI 4093).mem = true ∧ (atI 4093).dataAddr + 2 < 4096 ∧
      4096 ≤ (atI 4094).dataAddr + 2 := by decide
theorem witness_StoreRegistersAtI :
    Memory.wf Config.defaultFont (atI 0xFF0).mem = true ∧ (atI 0xFF0).dataAddr + (15 : Reg).val < 4096 ∧
      4096 ≤ (atI 0xFF1).dataAddr + (15 : Reg).val ∧
      (withParams .canonical .press true).params.ldstIncrementsI = true := by decide
theorem witness_LoadRegistersFromI :
    (atI 0xFFF).dataAddr + (0 : Reg).val < 4096 ∧ 4096 ≤ (atI 0x1000).dataAddr + (0 : Reg).val ∧
      (withParams .canonical .press true).params.ldstIncrementsI = true := by decide
theorem witness_StoredRegistersLoadBack :
    let s := (withParams .canonical .press true).setI 0xFF0
    Memory.wf Config.defaultFont (atI 0xFF0).mem = true ∧ (atI 0xFF0).dataAddr + (15 : Reg).val < 4096 ∧
      Memory.wf s.params.font s.mem = true ∧ s.dataAddr + (15 : Reg).val < 4096 := by decide
/-- FX33 at the end of memory, FX55 into the one byte 0x202, and a load with `pc` at the last word. -/
theorem witness_StoredBytesAreFetchedNext :
    let s := (regs 0x60 0 0).setI 0x202
    let e := (atI 4093).setPc 0xFFC
    Memory.wf s.params.font s.mem = true ∧ s.fault = none ∧
      (Memory.wf e.params.font e.mem = true ∧ e.fault = none ∧ e.dataAddr + 2 < 4096 ∧ (e.pc + 2).toNat + 1 < 4096) ∧
      (s.dataAddr + (0 : Reg).val < 4096 ∧ (s.pc + 2).toNat + 1 < 4096) ∧
      s.byteUnder s.dataAddr [0x60] 0x202 = 0x60 ∧ s.byteUnder s.dataAddr [0x60] 0x203 = 0 ∧
      decode s.params.opset ((0x60 : Byte) ++ (0 : Byte)) = some (.ldImm 0 0) ∧
      decode s.params.opset ((0x05 : Byte) ++ (0x04 : Byte)) = none ∧
      ([0x60, 0x05] : List Byte).length ≤ 3584 ∧ (atPc 0xFFE).pc.toNat + 1 < 4096 := by decide
theorem witness_MemoriesThatReadAlikeAreEqual :
    Memory.wf Config.defaultFont [(0, 1), (512, 5)] = true ∧ Memory.wf Config.defaultFont [(0, 0xF0)] = false ∧
      ∀ a, Memory.read Config.defaultFont [(512, 5)] a = Memory.read Config.defaultFont [(512, 5)] a :=
  ⟨by decide, by decide, fun _ => rfl⟩

theorem witness_KeyWaitOnPress :
    (keyDown 15).params.keywait = .press ∧ (keyDown 15).key[(15 : Reg)] = true ∧
      (∀ j : Reg, j < 15 → (keyDown 15).key[j] = false) ∧ ∀ k : Reg, State.reset.key[k] = false := by decide
theorem witness_KeyWaitOnPressAndRelease :
    let s := { withParams .canonical .pressRelease false with key := (keyDown 2).key }
    let w := { s with kwait := some 2 }
    let u := { w with key := State.reset.key }
    s.params.keywait = .pressRelease ∧ (s.kwait = none ∧ s.key[(2 : Reg)] = true ∧
        ∀ j : Reg, j < 2 → s.key[j] = false) ∧
      (∀ k : Reg, (withParams .canonical .pressRelease false).key[k] = false) ∧
      (w.kwait = some 2 ∧ w.key[(2 : Reg)] = true) ∧ (u.kwait = some 2 ∧ u.key[(2 : Reg)] = false) := by decide
/-- The boundary values of ST: 0 never signals, 1 signals at the first tick, 2 not. -/
theorem test_tick_signal :
    State.reset.tickTimers.2 = false ∧ (State.reset.setSt 1).tickTimers.2 = true ∧
      (State.reset.setSt 2).tickTimers.2 = false := by decide
theorem witness_ResetSetsTheWholeState :
    (HostOp.reset = .reset ∨ HostOp.reset = .construct) ∧
      (HostOp.construct = .reset ∨ HostOp.construct = .construct) ∧ 80 ≤ 4095 ∧ 4095 < 4096 := by decide
theorem witness_LoadWritesTheProgram :
    Memory.wf Config.defaultFont State.reset.mem = true ∧ (List.replicate 3584 (0 : Byte)).length ≤ 3584 ∧
      3584 < (List.replicate 3585 (0 : Byte)).length :=
  ⟨by decide, by rw [List.length_replicate], by rw [List.length_replicate]; decide⟩
theorem witness_SetKeySetsOneFlag : (0 : Nat) < 16 ∧ (15 : Nat) < 16 ∧ 16 ≤ (16 : Nat) := by decide
theorem witness_FinishedRunStaysFinished : (State.reset.withFetchWord 16 0x1200).finished :=
  ⟨by decide, by decide, by decide⟩
theorem witness_FinishedRunStaysFinished_ops :
    HostOp.tickTimers ≠ .construct ∧ HostOp.tickTimers ≠ .reset ∧ ∀ bytes, HostOp.tickTimers ≠ .load bytes :=
  ⟨by decide, by decide, fun _ e => by cases e⟩
theorem witness_EmptyMemoryRunsIntoAFetchFault : 0 ≤ 1792 ∧ 1792 ≤ 1792 := by decide

end Sys2Proof.Tests
end

section
/-! PROOFS. The arithmetic instructions that write a flag: 8XY4, 8XY5, 8XY6, 8XY7 and 8XYE (44_alu.md R136 to R140). Each of
them is `advance` and then one `setResultAndFlag`, so what they share is said once of that update. -/

namespace Sys2Proof.Machine

variable (s : State) (x y : Reg)

/-! ### The update they share -/

/-- `V[X]` holds the result when the flag does not overwrite it (10_state.md R22). -/
theorem State.setResultAndFlag_getV_result {x : Reg} (hx : x ≠ VF) (b : Byte) (f : Bool) :
    (s.setResultAndFlag x b f).getV x = b := by
  rw [State.setResultAndFlag_getV, if_neg hx, if_pos rfl]

/-- `VF` holds the flag, whatever `X` is (10_state.md R22). -/
theorem State.setResultAndFlag_getV_flag (b : Byte) (f : Bool) :
    (s.setResultAndFlag x b f).getV VF = flagByte f := by
  rw [State.setResultAndFlag_getV, if_pos rfl]

/-- After the fetch's advance, a result and a flag change `V[X]` and `VF` and nothing else (10_state.md R21). -/
theorem State.advance_setResultAndFlag_frame (b : Byte) (f : Bool) :
    Frame { v := fun r => r = x ∨ r = VF } s (s.advance.setResultAndFlag x b f) where
  v r hr := by
    obtain ⟨hrx, hrf⟩ := not_or.1 hr
    rw [State.setResultAndFlag_getV, if_neg hrf, if_neg hrx, State.advance_getV]
  i _ := rfl
  sp _ := rfl
  stack _ _ _ := rfl
  mem _ _ := rfl
  fb _ _ _ := rfl
  dt _ := rfl
  st _ := rfl
  kwait _ := rfl
  random _ := ⟨rfl, rfl⟩
  key := rfl
  fault := rfl
  params := rfl

/-! ### What each instruction is -/

theorem exec_addReg : exec (.addReg x y) s = .next (s.advance.setResultAndFlag x
    (BitVec.ofNat 8 ((s.getV x).toNat + (s.getV y).toNat)) (addCarry (s.getV x) (s.getV y))) := rfl

theorem exec_sub : exec (.sub x y) s = .next (s.advance.setResultAndFlag x
    (s.getV x - s.getV y) (noBorrow (s.getV x) (s.getV y))) := rfl

theorem exec_subn : exec (.subn x y) s = .next (s.advance.setResultAndFlag x
    (s.getV y - s.getV x) (noBorrow (s.getV y) (s.getV x))) := rfl

theorem exec_shr : exec (.shr x y) s = .next (s.advance.setResultAndFlag x
    (s.getV x >>> 1) (shrOut (s.getV x))) := rfl

theorem exec_shl : exec (.shl x y) s = .next (s.advance.setResultAndFlag x
    (s.getV x <<< 1) (shlOut (s.getV x))) := rfl

/-! ### Results and flags as numbers -/

/-- The difference of two bytes is the integer difference, wrapped (44_alu.md R137, R139). -/
theorem byte_sub_toNat (a b : Byte) : ((a - b).toNat : Int) = ((a.toNat : Int) - b.toNat) % 256 := by
  have ha := a.isLt
  have hb := b.isLt
  rw [BitVec.toNat_sub]
  omega

/-- Shifting a byte right by one halves it (44_alu.md R138). -/
theorem byte_shr_toNat (a : Byte) : (a >>> 1).toNat = a.toNat / 2 := by
  rw [BitVec.toNat_ushiftRight, Nat.shiftRight_eq_div_pow, Nat.pow_one]

/-- Shifting a byte left by one doubles it, wrapped (44_alu.md R140). -/
theorem byte_shl_toNat (a : Byte) : (a <<< 1).toNat = 2 * a.toNat % 256 := by
  rw [BitVec.toNat_shiftLeft, Nat.shiftLeft_eq, Nat.pow_one, Nat.mul_comm]

/-- A flag that is decided by a proposition is 1 exactly when it holds. -/
theorem flagByte_decide (p : Prop) [Decidable p] : flagByte (decide p) = if p then 1 else 0 := by
  simp [flagByte]

theorem flagByte_toNat (f : Bool) : (flagByte f).toNat = f.toNat := by
  cases f <;> rfl

/-- The bit 8XY6 shifts out is the remainder by 2 (44_alu.md R138). -/
theorem flagByte_shrOut_toNat (a : Byte) : (flagByte (shrOut a)).toNat = a.toNat % 2 := by
  rw [flagByte_toNat, shrOut, BitVec.getLsbD, Nat.toNat_testBit, Nat.pow_zero, Nat.div_one]

/-- The bit 8XYE shifts out is the top bit, the quotient by 128 (44_alu.md R140). -/
theorem flagByte_shlOut_toNat (a : Byte) : (flagByte (shlOut a)).toNat = a.toNat / 128 := by
  have ha := a.isLt
  rw [flagByte_toNat, shlOut, BitVec.getLsbD, Nat.toNat_testBit]
  omega

/-- What 8XY5 and 8XY7 share: a wrapped difference as the result and its "no borrow" as the flag. -/
theorem State.advance_setDifference (a b : Byte) :
    let t := s.advance.setResultAndFlag x (a - b) (noBorrow a b)
    t.pc = s.pc + 2 ∧ (x ≠ VF → ((t.getV x).toNat : Int) = ((a.toNat : Int) - b.toNat) % 256) ∧
      t.getV VF = (if b.toNat ≤ a.toNat then 1 else 0) ∧ Frame { v := fun r => r = x ∨ r = VF } s t :=
  ⟨rfl,
    fun hx => by rw [State.setResultAndFlag_getV_result _ hx, byte_sub_toNat],
    by rw [State.setResultAndFlag_getV_flag, noBorrow, flagByte_decide],
    s.advance_setResultAndFlag_frame x _ _⟩

/-! ### The obligations -/

/-- Settles O34: 8XY4 is the shared update with the wrapped sum and the carry. -/
theorem addRegistersWritesSumAndCarry : Obligations.AddRegistersWritesSumAndCarry := fun x y s =>
  ⟨_, exec_addReg s x y, rfl,
    fun hx => by rw [State.setResultAndFlag_getV_result _ hx, BitVec.toNat_ofNat],
    by rw [State.setResultAndFlag_getV_flag, addCarry, flagByte_decide],
    s.advance_setResultAndFlag_frame x _ _⟩

/-- Settles O35: 8XY5 and 8XY7 are one update, with the operands the two ways round. -/
theorem subtractionsWriteDifferenceAndNoBorrow : Obligations.SubtractionsWriteDifferenceAndNoBorrow := fun x y s =>
  ⟨⟨_, exec_sub s x y, s.advance_setDifference x (s.getV x) (s.getV y)⟩,
    ⟨_, exec_subn s x y, s.advance_setDifference x (s.getV y) (s.getV x)⟩⟩

/-- Settles O36: the shared update with the shifted byte and the bit shifted out; `V[Y]` is not in it. -/
theorem shiftsMoveOneBitIntoVF : Obligations.ShiftsMoveOneBitIntoVF := by
  intro x y s a
  constructor
  · refine ⟨_, exec_shr s x y, rfl, fun hx => ?_, ?_, s.advance_setResultAndFlag_frame x _ _⟩
    · rw [State.setResultAndFlag_getV_result _ hx, byte_shr_toNat]
    · rw [State.setResultAndFlag_getV_flag, flagByte_shrOut_toNat]
  · refine ⟨_, exec_shl s x y, rfl, fun hx => ?_, ?_, s.advance_setResultAndFlag_frame x _ _⟩
    · rw [State.setResultAndFlag_getV_result _ hx, byte_shl_toNat]
    · rw [State.setResultAndFlag_getV_flag, flagByte_shlOut_toNat]

end Sys2Proof.Machine
end

section
/-! PROOFS. The step that runs an instruction (20_memory.md R53, R57; 30_encoding.md R76), read off the model's `step_cases`:
each of the other cases of a step contradicts one of the three things a fetched instruction needs. -/

namespace Sys2Proof.Machine

/-- The fetched word is the byte at `pc` and then the byte after it, high byte first (20_memory.md R53, R57). -/
theorem State.fetchWord_eq_append (s : State) :
    s.fetchWord = s.readByte s.pc.toNat ++ s.readByte (s.pc.toNat + 1) := rfl

/-- The last case of 60_exceptions.md R173's priority: no latched fault, a fetch in memory and a word that decodes. -/
theorem step_eq_exec {s : State} {i : Instr} (hf : s.fault = none) (hp : s.pc.toNat + 1 < 4096)
    (hd : decode s.params.opset s.fetchWord = some i) : step s = exec i s := by
  obtain ⟨latched, -⟩ | ⟨-, pastMemory, -⟩ | ⟨-, -, unknown, -⟩ | ⟨-, -, j, decoded, runs⟩ := step_cases s
  · exact absurd hf latched
  · omega
  · rw [hd] at unknown
    cases unknown
  · obtain rfl : i = j := Option.some.inj (hd.symm.trans decoded)
    exact runs

/-- Settles O7: the word it reads at `pc` is the one a step fetches. -/
theorem stepRunsTheDecodedInstruction : Obligations.StepRunsTheDecodedInstruction := by
  intro s i hf hp hd
  rw [← s.fetchWord_eq_append] at hd
  exact step_eq_exec hf hp hd

end Sys2Proof.Machine
end

section
/-! PROOFS. Encoding against decoding (30_encoding.md R70 to R77). One direction reads each instruction's row off
`Laws.EncodedInItsRow`; the other puts a word together again from the fixed bits its row checks and the fields the row
reads, once for each format of R71. The opcode map is then the first direction at the words R75 writes as sums. -/

namespace Sys2Proof

open Laws

/-! ### From an instruction to its word and back -/

/-- Every instruction has its row in the table, which its word selects and which builds it back (R75). -/
theorem encodedInItsRow : ∀ i : Instr, EncodedInItsRow.Statement i
  | .cls => EncodedInItsRow.cls
  | .ret => EncodedInItsRow.ret
  | .nop => EncodedInItsRow.nop
  | .jp nnn => EncodedInItsRow.jp nnn
  | .call nnn => EncodedInItsRow.call nnn
  | .seImm x nn => EncodedInItsRow.seImm x nn
  | .sneImm x nn => EncodedInItsRow.sneImm x nn
  | .seReg x y => EncodedInItsRow.seReg x y
  | .ldImm x nn => EncodedInItsRow.ldImm x nn
  | .addImm x nn => EncodedInItsRow.addImm x nn
  | .ldReg x y => EncodedInItsRow.ldReg x y
  | .or x y => EncodedInItsRow.or x y
  | .and x y => EncodedInItsRow.and x y
  | .xor x y => EncodedInItsRow.xor x y
  | .addReg x y => EncodedInItsRow.addReg x y
  | .sub x y => EncodedInItsRow.sub x y
  | .shr x y => EncodedInItsRow.shr x y
  | .subn x y => EncodedInItsRow.subn x y
  | .shl x y => EncodedInItsRow.shl x y
  | .sneReg x y => EncodedInItsRow.sneReg x y
  | .ldI nnn => EncodedInItsRow.ldI nnn
  | .jpV0 nnn => EncodedInItsRow.jpV0 nnn
  | .rnd x nn => EncodedInItsRow.rnd x nn
  | .drw x y n => EncodedInItsRow.drw x y n
  | .skp x => EncodedInItsRow.skp x
  | .sknp x => EncodedInItsRow.sknp x
  | .ldVxDt x => EncodedInItsRow.ldVxDt x
  | .ldVxK x => EncodedInItsRow.ldVxK x
  | .ldDtVx x => EncodedInItsRow.ldDtVx x
  | .ldStVx x => EncodedInItsRow.ldStVx x
  | .addIVx x => EncodedInItsRow.addIVx x
  | .ldFVx x => EncodedInItsRow.ldFVx x
  | .ldBVx x => EncodedInItsRow.ldBVx x
  | .ldMemVx x => EncodedInItsRow.ldMemVx x
  | .ldVxMem x => EncodedInItsRow.ldVxMem x

/-- Selection says two things: the row is of the opcode set, and the word has the row's fixed bits. -/
theorem Row.selects_iff {o : Opset} {w : Word} {r : Row} :
    r.selects o w = true ↔ (o = .canonical || !r.canonicalOnly) = true ∧ w &&& r.mask = r.pattern := by
  rw [Row.selects, Bool.and_eq_true, decide_eq_true_iff]

/-- Decoding inverts encoding on the instructions of the set. -/
theorem decode_encode {o : Opset} {i : Instr} (hi : i.wellFormed o = true) : decode o (encode i) = some i := by
  obtain ⟨r, hr, sameSet, fixedBits, built⟩ := encodedInItsRow i
  have hs : r.selects o (encode i) = true := Row.selects_iff.2 ⟨sameSet ▸ hi, fixedBits⟩
  rw [decode_of_selects hr hs, built]

/-- Settles O2: the word of an instruction selects the instruction's own row, the only one it can select. -/
theorem decodeOfEncodeIsTheInstruction : Obligations.DecodeOfEncodeIsTheInstruction :=
  fun _ _ hi => decode_encode hi

/-! ### From a word to its instruction and back -/

/-- The opcode nibble, bits 15:12, the one part of a word that every mask of R75 keeps. -/
def fieldOp (w : Word) : Nibble := w.extractLsb' 12 4

theorem fieldOp_toNat (w : Word) : (fieldOp w).toNat = w.toNat / 4096 := by
  have := w.isLt
  rw [fieldOp, BitVec.extractLsb'_toNat, Nat.shiftRight_eq_div_pow]
  omega

section
variable (a : Nibble) (x y : Reg) (n : Nibble) (nn : Byte) (nnn : Addr12)

@[simp] theorem fieldOp_formNNN : fieldOp (formNNN a nnn) = a := by
  apply BitVec.eq_of_toNat_eq
  have := nnn.isLt
  rw [fieldOp_toNat, formNNN_toNat]
  omega

@[simp] theorem fieldOp_formXNN : fieldOp (formXNN a x nn) = a := by
  apply BitVec.eq_of_toNat_eq
  have := nn.isLt
  rw [fieldOp_toNat, formXNN_toNat]
  omega

@[simp] theorem fieldOp_formXYN : fieldOp (formXYN a x y n) = a := by
  apply BitVec.eq_of_toNat_eq
  have := n.isLt
  rw [fieldOp_toNat, formXYN_toNat]
  omega

end

/-- Every word is an opcode nibble and 12 bits; `eq_formXYN` says the same of its four nibbles. -/
theorem eq_formNNN (w : Word) : ∃ a nnn, w = formNNN a nnn := by
  refine ⟨fieldOp w, fieldNNN w, BitVec.eq_of_toNat_eq ?_⟩
  rw [formNNN_toNat, fieldOp_toNat, fieldNNN_toNat]
  omega

/-- Every word is an opcode nibble, `X` and 8 bits. -/
theorem eq_formXNN (w : Word) : ∃ a x nn, w = formXNN a x nn := by
  refine ⟨fieldOp w, fieldX w, fieldNN w, BitVec.eq_of_toNat_eq ?_⟩
  have := w.isLt
  rw [formXNN_toNat, fieldOp_toNat, fieldX_val, fieldNN_toNat]
  omega

section
variable {w : Word} {a n : Nibble} {nn : Byte}

/-- Format NNN: the mask fixes the opcode nibble, the field is the rest. -/
theorem formNNN_of_and_F000 (h : w &&& 0xF000#16 = formNNN a 0) : formNNN a (fieldNNN w) = w := by
  obtain ⟨b, nnn, rfl⟩ := eq_formNNN w
  have hb : b = a := by simpa using congrArg fieldOp h
  rw [fieldNNN_formNNN, hb]

/-- Format XNN: the mask fixes the opcode nibble, the two fields are the rest. -/
theorem formXNN_of_and_F000 (h : w &&& 0xF000#16 = formXNN a 0 0) : formXNN a (fieldX w) (fieldNN w) = w := by
  obtain ⟨b, x, nn, rfl⟩ := eq_formXNN w
  have hb : b = a := by simpa using congrArg fieldOp h
  rw [fieldX_formXNN, fieldNN_formXNN, hb]

/-- Format XK: the mask fixes all but `X`. -/
theorem formXNN_of_and_F0FF (h : w &&& 0xF0FF#16 = formXNN a 0 nn) : formXNN a (fieldX w) nn = w := by
  obtain ⟨b, x, mm, rfl⟩ := eq_formXNN w
  have hb : b = a := by simpa using congrArg fieldOp h
  have hm : mm = nn := by simpa using congrArg fieldNN h
  rw [fieldX_formXNN, hb, hm]

/-- Format XYN: the mask fixes the opcode nibble, the three fields are the rest. -/
theorem formXYN_of_and_F000 (h : w &&& 0xF000#16 = formXYN a 0 0 0) :
    formXYN a (fieldX w) (fieldY w) (fieldN w) = w := by
  obtain ⟨b, x, y, n, rfl⟩ := eq_formXYN w
  have hb : b = a := by simpa using congrArg fieldOp h
  rw [fieldX_formXYN, fieldY_formXYN, fieldN_formXYN, hb]

/-- Format XY0: the mask fixes all but `X` and `Y`. -/
theorem formXYN_of_and_F00F (h : w &&& 0xF00F#16 = formXYN a 0 0 n) :
    formXYN a (fieldX w) (fieldY w) n = w := by
  obtain ⟨b, x, y, m, rfl⟩ := eq_formXYN w
  have hb : b = a := by simpa using congrArg fieldOp h
  have hm : m = n := by simpa using congrArg fieldN h
  rw [fieldX_formXYN, fieldY_formXYN, hb, hm]

/-- Format FIX: the mask fixes the whole word. -/
theorem eq_of_and_FFFF {p : Word} (h : w &&& 0xFFFF#16 = p) : p = w :=
  h.symm.trans BitVec.and_allOnes

end

/-- The row drops no bit of a word with its fixed bits, and builds an instruction of its own `OPSET` entry. -/
def Row.Faithful (r : Row) : Prop :=
  ∀ w, w &&& r.mask = r.pattern → encode (r.build w) = w ∧ (r.build w).canonicalOnly = r.canonicalOnly

/-- All 35 rows of R75, each by the lemma of its format. -/
theorem dispatchTable_faithful : ∀ r ∈ dispatchTable, r.Faithful :=
  List.forall_iff_forall_mem.1
    ⟨fun _ h => ⟨eq_of_and_FFFF h, rfl⟩, fun _ h => ⟨eq_of_and_FFFF h, rfl⟩, fun _ h => ⟨eq_of_and_FFFF h, rfl⟩,
      fun _ h => ⟨formNNN_of_and_F000 h, rfl⟩, fun _ h => ⟨formNNN_of_and_F000 h, rfl⟩,
      fun _ h => ⟨formXNN_of_and_F000 h, rfl⟩, fun _ h => ⟨formXNN_of_and_F000 h, rfl⟩,
      fun _ h => ⟨formXYN_of_and_F00F h, rfl⟩,
      fun _ h => ⟨formXNN_of_and_F000 h, rfl⟩, fun _ h => ⟨formXNN_of_and_F000 h, rfl⟩,
      fun _ h => ⟨formXYN_of_and_F00F h, rfl⟩, fun _ h => ⟨formXYN_of_and_F00F h, rfl⟩,
      fun _ h => ⟨formXYN_of_and_F00F h, rfl⟩, fun _ h => ⟨formXYN_of_and_F00F h, rfl⟩,
      fun _ h => ⟨formXYN_of_and_F00F h, rfl⟩, fun _ h => ⟨formXYN_of_and_F00F h, rfl⟩,
      fun _ h => ⟨formXYN_of_and_F00F h, rfl⟩, fun _ h => ⟨formXYN_of_and_F00F h, rfl⟩,
      fun _ h => ⟨formXYN_of_and_F00F h, rfl⟩, fun _ h => ⟨formXYN_of_and_F00F h, rfl⟩,
      fun _ h => ⟨formNNN_of_and_F000 h, rfl⟩, fun _ h => ⟨formNNN_of_and_F000 h, rfl⟩,
      fun _ h => ⟨formXNN_of_and_F000 h, rfl⟩,
      fun _ h => ⟨formXYN_of_and_F000 h, rfl⟩,
      fun _ h => ⟨formXNN_of_and_F0FF h, rfl⟩, fun _ h => ⟨formXNN_of_and_F0FF h, rfl⟩,
      fun _ h => ⟨formXNN_of_and_F0FF h, rfl⟩, fun _ h => ⟨formXNN_of_and_F0FF h, rfl⟩,
      fun _ h => ⟨formXNN_of_and_F0FF h, rfl⟩, fun _ h => ⟨formXNN_of_and_F0FF h, rfl⟩,
      fun _ h => ⟨formXNN_of_and_F0FF h, rfl⟩, fun _ h => ⟨formXNN_of_and_F0FF h, rfl⟩,
      fun _ h => ⟨formXNN_of_and_F0FF h, rfl⟩, fun _ h => ⟨formXNN_of_and_F0FF h, rfl⟩,
      fun _ h => ⟨formXNN_of_and_F0FF h, rfl⟩⟩

/-- A word that decodes is the word of what it decodes to, which is of the opcode set. -/
theorem encode_of_decode {o : Opset} {w : Word} {i : Instr} (hd : decode o w = some i) :
    encode i = w ∧ i.wellFormed o = true := by
  obtain ⟨r, found, rfl⟩ := Option.map_eq_some_iff.1 hd
  obtain ⟨inSet, fixedBits⟩ := Row.selects_iff.1 (List.find?_some found)
  obtain ⟨sameWord, sameSet⟩ := dispatchTable_faithful r (List.mem_of_find?_eq_some found) w fixedBits
  exact ⟨sameWord, by rwa [Instr.wellFormed, sameSet]⟩

/-- Settles O3, by the row the word selects. -/
theorem encodeOfDecodeIsTheWord : Obligations.EncodeOfDecodeIsTheWord :=
  fun _ _ _ hd => encode_of_decode hd

/-! ### The opcode map -/

/-- Every instruction is one of the Canonical set. -/
theorem wellFormed_canonical (i : Instr) : i.wellFormed .canonical = true := rfl

/-- The word of an instruction of the Canonical set alone is unknown to Snapshot: what it decoded to there would have the
same word. -/
theorem decode_snapshot_encode {i : Instr} (hi : i.canonicalOnly = true) : decode .snapshot (encode i) = none := by
  refine Option.eq_none_iff_forall_ne_some.2 fun j hj => ?_
  obtain ⟨sameWord, inSnapshot⟩ := encode_of_decode hj
  have sameInstr : j = i := Option.some.inj <|
    calc some j = decode .canonical (encode j) := (decode_encode (wellFormed_canonical j)).symm
      _ = decode .canonical (encode i) := by rw [sameWord]
      _ = some i := decode_encode (wellFormed_canonical i)
  rw [sameInstr, Instr.wellFormed, hi] at inSnapshot
  cases inSnapshot

/-! The words of R71's formats as R75 writes them: the match value, then the fields in their places. -/

section
variable (a : Nibble) (x y : Reg) (n : Nibble) (nn : Byte)

theorem formXNN_toNat_match : (formXNN a x nn).toNat = 0x1000 * a.toNat + (0x100 * x.val + nn.toNat) := by
  rw [formXNN_toNat]
  omega

theorem formXK_toNat_match : (formXNN a x nn).toNat = 0x1000 * a.toNat + nn.toNat + 0x100 * x.val := by
  rw [formXNN_toNat]
  omega

theorem formXYN_toNat_match :
    (formXYN a x y n).toNat = 0x1000 * a.toNat + (0x100 * x.val + 0x10 * y.val + n.toNat) := by
  rw [formXYN_toNat]
  omega

theorem formXY0_toNat_match :
    (formXYN a x y n).toNat = 0x1000 * a.toNat + n.toNat + (0x100 * x.val + 0x10 * y.val) := by
  rw [formXYN_toNat]
  omega

end

section
variable {i : Instr} {pattern fields : Nat}

theorem ofNat_eq_encode (hw : (encode i).toNat = pattern + fields) :
    BitVec.ofNat 16 (pattern + fields) = encode i := by
  rw [← hw, BitVec.ofNat_toNat, BitVec.setWidth_eq]

/-- Rows 1 to 25 of R75. -/
theorem decode_in_both (hw : (encode i).toNat = pattern + fields) (hi : i.canonicalOnly = false) :
    decode .snapshot (BitVec.ofNat 16 (pattern + fields)) = some i ∧
      decode .canonical (BitVec.ofNat 16 (pattern + fields)) = some i := by
  rw [ofNat_eq_encode hw]
  exact ⟨decode_encode (by rw [Instr.wellFormed, hi]; rfl), decode_encode (wellFormed_canonical i)⟩

/-- Rows 26 to 35 of R75 (the spec's decision D1). -/
theorem decode_in_canonical_only (hw : (encode i).toNat = pattern + fields) (hi : i.canonicalOnly = true) :
    decode .snapshot (BitVec.ofNat 16 (pattern + fields)) = none ∧
      decode .canonical (BitVec.ofNat 16 (pattern + fields)) = some i := by
  rw [ofNat_eq_encode hw]
  exact ⟨decode_snapshot_encode hi, decode_encode (wellFormed_canonical i)⟩

end

/-- Settles O4: each word of the map is the word of its instruction, by the format of its row. -/
theorem opcodeMapDecodesAsWritten : Obligations.OpcodeMapDecodesAsWritten := fun x y n nn nnn =>
  ⟨decode_in_both rfl rfl, decode_in_both rfl rfl, decode_in_both rfl rfl,
    decode_in_both (formNNN_toNat _ nnn) rfl, decode_in_both (formNNN_toNat _ nnn) rfl,
    decode_in_both (formXNN_toNat_match _ x nn) rfl, decode_in_both (formXNN_toNat_match _ x nn) rfl,
    decode_in_both (formXY0_toNat_match _ x y _) rfl,
    decode_in_both (formXNN_toNat_match _ x nn) rfl, decode_in_both (formXNN_toNat_match _ x nn) rfl,
    decode_in_both (formXY0_toNat_match _ x y _) rfl, decode_in_both (formXY0_toNat_match _ x y _) rfl,
    decode_in_both (formXY0_toNat_match _ x y _) rfl, decode_in_both (formXY0_toNat_match _ x y _) rfl,
    decode_in_both (formXY0_toNat_match _ x y _) rfl, decode_in_both (formXY0_toNat_match _ x y _) rfl,
    decode_in_both (formXY0_toNat_match _ x y _) rfl, decode_in_both (formXY0_toNat_match _ x y _) rfl,
    decode_in_both (formXY0_toNat_match _ x y _) rfl, decode_in_both (formXY0_toNat_match _ x y _) rfl,
    decode_in_both (formNNN_toNat _ nnn) rfl, decode_in_both (formNNN_toNat _ nnn) rfl,
    decode_in_both (formXNN_toNat_match _ x nn) rfl,
    decode_in_both (formXYN_toNat_match _ x y n) rfl,
    decode_in_both (formXK_toNat_match _ x _) rfl,
    decode_in_canonical_only (formXK_toNat_match _ x _) rfl, decode_in_canonical_only (formXK_toNat_match _ x _) rfl,
    decode_in_canonical_only (formXK_toNat_match _ x _) rfl, decode_in_canonical_only (formXK_toNat_match _ x _) rfl,
    decode_in_canonical_only (formXK_toNat_match _ x _) rfl, decode_in_canonical_only (formXK_toNat_match _ x _) rfl,
    decode_in_canonical_only (formXK_toNat_match _ x _) rfl, decode_in_canonical_only (formXK_toNat_match _ x _) rfl,
    decode_in_canonical_only (formXK_toNat_match _ x _) rfl, decode_in_canonical_only (formXK_toNat_match _ x _) rfl⟩

/-! ### Written-out words -/

/-- Settles O1, by evaluating the decoder on the thirteen words. -/
theorem specWordsDecode : Obligations.SpecWordsDecode := by
  unfold Obligations.SpecWordsDecode
  decide

end Sys2Proof
end

section
/-! PROOFS. The display instructions CLS and DXYN (41_display.md R100 to R102). The laws of the framebuffer speak of a list of
pixels toggled once each; here that list is tied to the cells the sprite covers, and the draw is read off it. -/

namespace Sys2Proof.Machine

variable (s : State) (x y : Reg) (n : Nibble)

/-! ### CLS -/

theorem exec_cls : exec .cls s = .next (s.advance.setFb Framebuffer.clear) := rfl

/-- After the fetch's advance, a new framebuffer is the only change. -/
theorem State.advance_setFb_frame (fb : Framebuffer) : Frame { fb := True } s (s.advance.setFb fb) where
  v _ _ := rfl
  i _ := rfl
  sp _ := rfl
  stack _ _ _ := rfl
  mem _ _ := rfl
  fb changed := absurd trivial changed
  dt _ := rfl
  st _ := rfl
  kwait _ := rfl
  random _ := ⟨rfl, rfl⟩
  key := rfl
  fault := rfl
  params := rfl

/-- Settles O19: whatever a cell was, it reads as off in the cleared framebuffer. -/
theorem clsTurnsEveryCellOff : Obligations.ClsTurnsEveryCellOff :=
  ⟨fun o => decode_encode (i := .cls) (by cases o <;> rfl),
    fun s => ⟨_, exec_cls s, rfl, Framebuffer.get_clear, s.advance_setFb_frame _⟩⟩

/-! ### The cells of a sprite -/

/-- The pixels DXYN toggles are the cells the sprite covers (R101). -/
theorem State.mem_spritePixels_iff_spriteCovers {x0 y0 : Nat} {px : Fin 64} {py : Fin 32} :
    (px, py) ∈ spritePixels x0 y0 (s.spriteRows n) ↔ s.spriteCovers x0 y0 n px py := by
  simp only [mem_spritePixels, State.spriteCovers, State.spriteRows_getElem, State.spriteRows_length,
    exists_prop, State.dataAddr]

/-- A sprite has at most 15 rows, so none of its pixels comes twice (R101). -/
theorem State.nodup_spritePixels_spriteRows (x0 y0 : Nat) : (spritePixels x0 y0 (s.spriteRows n)).Nodup := by
  have := n.isLt
  exact nodup_spritePixels x0 _ y0 (by rw [State.spriteRows_length]; omega)

/-! ### The draw -/

/-- The collision of a draw: the flag DXYN's loops end with (R101). -/
def State.collides : Bool :=
  (drawRows (s.getV x).toNat (s.getV y).toNat (s.spriteRows n) (s.fb, false)).2

/-- `VF` is written last (the spec's decision D7). -/
theorem State.draw_getV_VF : (s.draw x y n).getV VF = flagByte (s.collides x y n) := by
  rw [State.draw, State.setFlag_getV, if_pos rfl, State.collides]

/-- A draw collides exactly when a cell the sprite covers was lit before it (R101). -/
theorem State.collides_iff : s.collides x y n = true ↔
    ∃ px py, s.spriteCovers (s.getV x).toNat (s.getV y).toNat n px py ∧ Framebuffer.get s.fb px py = true := by
  have h := (toggleAll_spec _ (s.fb, false)
    (s.nodup_spritePixels_spriteRows n (s.getV x).toNat (s.getV y).toNat)).2
  rw [State.collides, drawRows_eq_toggleAll, h]
  simp only [Bool.false_eq_true, false_or, Prod.exists, State.mem_spritePixels_iff_spriteCovers]

section
variable {x y : Reg} {n : Nibble} {px : Fin 64} {py : Fin 32}

/-- A cell after a draw, by the list of pixels; the two lemmas after it say the same by the cells covered. -/
theorem State.get_draw_fb : Framebuffer.get (s.draw x y n).fb px py =
    (Framebuffer.get s.fb px py ^^
      decide ((px, py) ∈ spritePixels (s.getV x).toNat (s.getV y).toNat (s.spriteRows n))) := by
  rw [State.draw, State.setFlag_fb, State.setFb_fb, drawRows_eq_toggleAll]
  exact (toggleAll_spec _ _ (s.nodup_spritePixels_spriteRows n _ _)).1 px py

theorem State.get_draw_fb_of_covers (h : s.spriteCovers (s.getV x).toNat (s.getV y).toNat n px py) :
    Framebuffer.get (s.draw x y n).fb px py = !Framebuffer.get s.fb px py := by
  rw [State.get_draw_fb, decide_eq_true ((s.mem_spritePixels_iff_spriteCovers n).2 h), Bool.xor_true]

theorem State.get_draw_fb_of_not_covers (h : ¬ s.spriteCovers (s.getV x).toNat (s.getV y).toNat n px py) :
    Framebuffer.get (s.draw x y n).fb px py = Framebuffer.get s.fb px py := by
  rw [State.get_draw_fb, decide_eq_false (mt (s.mem_spritePixels_iff_spriteCovers n).1 h), Bool.xor_false]

end

/-- After the fetch's advance, a draw changes the framebuffer and `VF` and nothing else. -/
theorem State.advance_draw_frame : Frame { v := fun r => r = VF, fb := True } s (s.advance.draw x y n) where
  v r hr := by rw [State.draw, State.setFlag_getV, if_neg hr, State.setFb_getV, State.advance_getV]
  i _ := rfl
  sp _ := rfl
  stack _ _ _ := rfl
  mem _ _ := rfl
  fb changed := absurd trivial changed
  dt _ := rfl
  st _ := rfl
  kwait _ := rfl
  random _ := ⟨rfl, rfl⟩
  key := rfl
  fault := rfl
  params := rfl

/-! ### DXYN -/

section
variable {s : State} {n : Nibble}

/-- A sprite that is empty or ends in memory is drawn. -/
theorem exec_drw_of_inBounds (h : n.toNat = 0 ∨ s.i.toNat + n.toNat ≤ 4096) :
    exec (.drw x y n) s = .next (s.advance.draw x y n) := by
  have inBounds : lowestBad s.dataAddr n.toNat = none := lowestBad_eq_none_iff.2 h
  simp only [exec, execDrw, inBounds]

/-- A sprite that has a row past memory faults at the lowest such address (the spec's decision D30). -/
theorem exec_drw_of_outOfBounds (hn : n.toNat ≠ 0) (h : 4096 < s.i.toNat + n.toNat) :
    exec (.drw x y n) s
      = .next (s.faulted (.drw x y n) .memoryOutOfBounds (some (max s.i.toNat 4096))) := by
  have outOfBounds : lowestBad s.dataAddr n.toNat = some (max s.i.toNat 4096) :=
    lowestBad_eq_some_iff.2 ⟨rfl, max_lt (by rw [State.dataAddr]; omega) h⟩
  simp only [exec, execDrw, outOfBounds, raiseFault_eq, State.faulted]

end

/-- Settles O20: in bounds by the laws of the draw, at the state after the fetch's advance, which has the same registers,
memory and framebuffer. -/
theorem drwFlipsTheSpriteAndReportsCollision : Obligations.DrwFlipsTheSpriteAndReportsCollision := by
  intro x y n s
  refine ⟨fun inBounds => ⟨_, exec_drw_of_inBounds x y inBounds, rfl, ?_, ?_, ?_, ?_, s.advance_draw_frame x y n⟩,
    exec_drw_of_outOfBounds x y⟩
  · exact fun _ _ covered => s.advance.get_draw_fb_of_covers covered
  · exact fun _ _ uncovered => s.advance.get_draw_fb_of_not_covers uncovered
  · intro lit
    rw [State.draw_getV_VF, (s.advance.collides_iff x y n).2 lit]
    rfl
  · intro unlit
    rw [State.draw_getV_VF, Bool.eq_false_iff.2 (mt (s.advance.collides_iff x y n).1 unlit)]
    rfl

end Sys2Proof.Machine
end

section
/-! PROOFS. The jump 1NNN (42_control_flow.md R112): the fetch's advance, and then a `pc` of the instruction's own. -/

namespace Sys2Proof.Machine

/-- `zext_16(NNN)` is `NNN` as a number (00_scope.md R7). -/
theorem zextNNN_toNat (nnn : Addr12) : (zextNNN nnn).toNat = nnn.toNat :=
  BitVec.toNat_setWidth_of_le (by decide)

/-- Whatever is put in `pc` after the fetch's advance, nothing else changes. -/
theorem State.advance_setPc_frame (s : State) (w : Word) : Frame {} s (s.advance.setPc w) where
  v _ _ := rfl
  i _ := rfl
  sp _ := rfl
  stack _ _ _ := rfl
  mem _ _ := rfl
  fb _ _ _ := rfl
  dt _ := rfl
  st _ := rfl
  kwait _ := rfl
  random _ := ⟨rfl, rfl⟩
  key := rfl
  fault := rfl
  params := rfl

theorem exec_jp (nnn : Addr12) (s : State) : exec (.jp nnn) s = .next (s.advance.setPc (zextNNN nnn)) := rfl

/-- The word of 1NNN decodes to JP in both opcode sets (30_encoding.md R75 row 4). -/
theorem decode_jp (nnn : Addr12) (o : Opset) :
    decode o (BitVec.ofNat 16 (0x1000 + nnn.toNat)) = some (.jp nnn) := by
  have both := decode_in_both (i := .jp nnn) (formNNN_toNat 0x1#4 nnn) rfl
  cases o with
  | snapshot => exact both.1
  | canonical => exact both.2

/-- Settles O23: the word is row 4's, and the state JP answers is the advanced one with `NNN` in `pc`. -/
theorem jpSetsPc : Obligations.JpSetsPc := fun nnn s =>
  ⟨decode_jp nnn, _, exec_jp nnn s, zextNNN_toNat nnn, s.advance_setPc_frame _⟩

end Sys2Proof.Machine
end

section
/-! PROOFS. The conditional skips 3XNN, 4XNN, 5XY0 and 9XY0 (43_skips.md R120 to R123). Each of them is the fetch's advance
and then one `skipIf`, so the effect is said once of that update; the words a register skip leaves unknown (R77) differ from
every row of the dispatch table in a bit that both fix. -/

namespace Sys2Proof

/-! ### The words of the skips -/

/-- The word of an instruction of the source's own table (rows 1 to 25 of R75) decodes to it in either opcode set. -/
theorem decode_ofNat_of_toNat_encode {o : Opset} {i : Instr} {k : Nat} (hk : (encode i).toNat = k)
    (hi : i.canonicalOnly = false) : decode o (BitVec.ofNat 16 k) = some i := by
  have inSet : i.wellFormed o = true := by rw [Instr.wellFormed, hi, Bool.not_false, Bool.or_true]
  rw [← hk, BitVec.ofNat_toNat, BitVec.setWidth_eq, decode_encode inSet]

section
variable (a : Nibble) (x y : Reg) (n : Nibble) (nn : Byte)

theorem formXNN_toNat_sum : (formXNN a x nn).toNat = 0x1000 * a.toNat + 0x100 * x.val + nn.toNat := by
  rw [formXNN_toNat]
  omega

theorem formXYN_toNat_sum :
    (formXYN a x y n).toNat = 0x1000 * a.toNat + 0x100 * x.val + 0x10 * y.val + n.toNat := by
  rw [formXYN_toNat]
  omega

end

/-! ### Unknown words beside the register skips -/

/-- A word decodes to nothing when the bits `m` of it differ from every row's pattern in a bit the row fixes (R76, R77). -/
theorem decode_eq_none_of_apart {o : Opset} {w m p : Word} (hw : w &&& m = p)
    (apart : ∀ q ∈ dispatchTable, p &&& q.mask ≠ q.pattern &&& m) : decode o w = none := by
  rw [decode, Option.map_eq_none_iff, List.find?_eq_none]
  intro q hq selected
  obtain ⟨-, fixedBits⟩ := Row.selects_iff.1 selected
  exact apart q hq <|
    calc p &&& q.mask = w &&& m &&& q.mask := by rw [hw]
      _ = w &&& q.mask &&& m := by rw [BitVec.and_assoc, BitVec.and_comm m, ← BitVec.and_assoc]
      _ = q.pattern &&& m := by rw [fixedBits]

/-- No row has the opcode nibble 5 or 9 and a low nibble other than 0. -/
theorem dispatchTable_apart_registerSkip {a : Nibble} (ha : a = 5 ∨ a = 9) :
    ∀ n : Nibble, n ≠ 0 → ∀ q ∈ dispatchTable, formXYN a 0 0 n &&& q.mask ≠ q.pattern &&& 0xF00F#16 := by
  obtain rfl | rfl := ha <;> decide

/-- With a low nibble other than 0, the words beside 5XY0 and 9XY0 are unknown opcodes (R77). -/
theorem decode_registerSkip_eq_none {o : Opset} {a n : Nibble} {x y : Reg} {k : Nat} (ha : a = 5 ∨ a = 9) (hn : n ≠ 0)
    (hk : (formXYN a x y n).toNat = k) : decode o (BitVec.ofNat 16 k) = none := by
  rw [← hk, BitVec.ofNat_toNat, BitVec.setWidth_eq]
  exact decode_eq_none_of_apart (formXYN_and_F00F a x y n) (dispatchTable_apart_registerSkip ha n hn)

end Sys2Proof

namespace Sys2Proof.Machine

variable (s : State) (x y : Reg) (nn : Byte)

/-! ### The update they share -/

/-- Skipping or not, nothing but `pc` changes. -/
theorem State.advance_skipIf_frame (c : Bool) : Frame {} s (s.advance.skipIf c) := by
  cases c with
  | false => exact s.advance_setPc_frame (s.pc + 2)
  | true => exact s.advance_setPc_frame (s.pc + 2 + 2)

/-- A skip passes over the next word (00_scope.md R8). -/
theorem State.advance_skipIf_pc (c : Bool) :
    (s.advance.skipIf c).pc = if c then s.pc + 4 else s.pc + 2 := by
  rw [State.skipIf_pc, State.advance_pc, BitVec.add_assoc]
  rfl

section
variable (p : Prop) [Decidable p]

/-- What 3XNN and 5XY0 share: a skip when their condition holds. -/
theorem State.advance_skipIf_holds :
    Frame {} s (s.advance.skipIf p) ∧ (s.advance.skipIf p).pc = if p then s.pc + 4 else s.pc + 2 :=
  ⟨s.advance_skipIf_frame _, by rw [State.advance_skipIf_pc]; simp only [decide_eq_true_iff]⟩

/-- What 4XNN and 9XY0 share: a skip when the condition fails. -/
theorem State.advance_skipIf_fails :
    Frame {} s (s.advance.skipIf (¬ p)) ∧ (s.advance.skipIf (¬ p)).pc = if p then s.pc + 2 else s.pc + 4 :=
  ⟨s.advance_skipIf_frame _, by rw [State.advance_skipIf_pc]; simp only [decide_eq_true_iff, ite_not]⟩

end

/-! ### What each instruction is -/

theorem exec_seImm : exec (.seImm x nn) s = .next (s.advance.skipIf (s.getV x = nn)) := rfl

theorem exec_sneImm : exec (.sneImm x nn) s = .next (s.advance.skipIf (s.getV x ≠ nn)) := rfl

theorem exec_seReg : exec (.seReg x y) s = .next (s.advance.skipIf (s.getV x = s.getV y)) := rfl

theorem exec_sneReg : exec (.sneReg x y) s = .next (s.advance.skipIf (s.getV x ≠ s.getV y)) := rfl

/-! ### The obligations -/

/-- Settles O28: the words are those of rows 6 and 7, and the effect is the shared skip on equality and on its negation. -/
theorem immediateSkips : Obligations.ImmediateSkips := fun x nn s =>
  ⟨fun _ => ⟨decode_ofNat_of_toNat_encode (formXNN_toNat_sum _ x nn) rfl,
      decode_ofNat_of_toNat_encode (formXNN_toNat_sum _ x nn) rfl⟩,
    ⟨_, exec_seImm s x nn, s.advance_skipIf_holds _⟩,
    ⟨_, exec_sneImm s x nn, s.advance_skipIf_fails _⟩⟩

/-- Settles O29: the words are those of rows 8 and 20, no row has their opcode nibbles with another low nibble, and the
effect is the shared skip. -/
theorem registerSkips : Obligations.RegisterSkips := fun x y s =>
  ⟨fun _ => ⟨decode_ofNat_of_toNat_encode (formXYN_toNat_sum _ x y 0) rfl,
      decode_ofNat_of_toNat_encode (formXYN_toNat_sum _ x y 0) rfl,
      fun n hn => ⟨decode_registerSkip_eq_none (.inl rfl) hn (formXYN_toNat_sum _ x y n),
        decode_registerSkip_eq_none (.inr rfl) hn (formXYN_toNat_sum _ x y n)⟩⟩,
    ⟨_, exec_seReg s x y, s.advance_skipIf_holds _⟩,
    ⟨_, exec_sneReg s x y, s.advance_skipIf_fails _⟩⟩

end Sys2Proof.Machine
end

section
/-! PROOFS. Register loads, the addition of an immediate and CXNN (44_alu.md R130 to R132, R145, R146). All of them are the
fetch's advance and then one write of `V[X]`, and CXNN also takes a byte of the random source. That no other instruction sees
that source is said once of `exec`: it commutes with the host's supply. -/

namespace Sys2Proof.Machine

variable (s : State) (x y : Reg) (nn b r : Byte)

/-! ### One register written -/

/-- After the fetch's advance, a write of `V[X]` is the only change (10_state.md R21). -/
theorem State.advance_setV_frame : Frame { v := fun q => q = x } s (s.advance.setV x b) where
  v q hq := by rw [State.setV_getV, if_neg hq, State.advance_getV]
  i _ := rfl
  sp _ := rfl
  stack _ _ _ := rfl
  mem _ _ := rfl
  fb _ _ _ := rfl
  dt _ := rfl
  st _ := rfl
  kwait _ := rfl
  random _ := ⟨rfl, rfl⟩
  key := rfl
  fault := rfl
  params := rfl

/-- With a byte of the random source taken before the write, the source is the only other change (44_alu.md R145). -/
theorem State.advance_dropRandom_setV_frame :
    Frame { v := fun q => q = x, random := True } s (s.advance.dropRandom.setV x b) :=
  { s.advance_setV_frame x b with random := fun changed => absurd trivial changed }

theorem State.setV_getV_same : (s.setV x b).getV x = b := by
  rw [State.setV_getV, if_pos rfl]

/-! ### What each instruction is -/

theorem exec_ldImm : exec (.ldImm x nn) s = .next (s.advance.setV x nn) := rfl

theorem exec_ldReg : exec (.ldReg x y) s = .next (s.advance.setV x (s.getV y)) := rfl

theorem exec_addImm : exec (.addImm x nn) s = .next (s.advance.setV x (s.getV x + nn)) := rfl

theorem exec_rnd : exec (.rnd x nn) s = .next (s.advance.dropRandom.setV x (s.randomByte &&& nn)) := rfl

/-! ### The random byte -/

section
variable {s : State}

/-- A supplied byte is taken first (44_alu.md R146). -/
theorem State.randomByte_of_cons {b : Byte} {rest : List Byte} (h : s.randomIn = b :: rest) : s.randomByte = b := by
  rw [State.randomByte, h]

/-- Without a supply the byte is the free value of the count of draws (log 2). -/
theorem State.randomByte_of_nil (h : s.randomIn = []) : s.randomByte = Config.randomByte s.draws := by
  rw [State.randomByte, h]

end

/-! ### What the operations see of the host's supply -/

@[simp] theorem State.supplyRandom_getV : (s.supplyRandom r).getV x = s.getV x := rfl
@[simp] theorem State.supplyRandom_dataAddr : (s.supplyRandom r).dataAddr = s.dataAddr := rfl
@[simp] theorem State.supplyRandom_keyNamed : (s.supplyRandom r).keyNamed b = s.keyNamed b := rfl
@[simp] theorem State.supplyRandom_leastKeyDown : (s.supplyRandom r).leastKeyDown = s.leastKeyDown := rfl
@[simp] theorem State.supplyRandom_fetchWord : (s.supplyRandom r).fetchWord = s.fetchWord := rfl

/-! The updates with a condition commute with the supply; the others do so by `rfl`. -/

theorem State.skipIf_supplyRandom (c : Bool) : (s.supplyRandom r).skipIf c = (s.skipIf c).supplyRandom r := by
  cases c <;> rfl

theorem State.ldstIncrement_supplyRandom : (s.supplyRandom r).ldstIncrement x = (s.ldstIncrement x).supplyRandom r := by
  unfold State.ldstIncrement
  rw [State.supplyRandom_params]
  split <;> rfl

theorem State.keyWaitPress_supplyRandom : (s.supplyRandom r).keyWaitPress x = (s.keyWaitPress x).supplyRandom r := by
  unfold State.keyWaitPress
  rw [State.supplyRandom_leastKeyDown]
  split <;> rfl

theorem State.keyWaitPressRelease_supplyRandom :
    (s.supplyRandom r).keyWaitPressRelease x = (s.keyWaitPressRelease x).supplyRandom r := by
  unfold State.keyWaitPressRelease
  rw [State.supplyRandom_leastKeyDown, State.supplyRandom_kwait, State.supplyRandom_key]
  split
  · split <;> rfl
  · split <;> rfl

/-! ### Every instruction but CXNN, and every step that does not run it -/

/-- An answer with the byte `r` supplied to the state it holds, if it holds one. -/
def Result.supplyRandom (r : Byte) : Result → Result
  | .next t => .next (t.supplyRandom r)
  | .fault f => .fault f
  | .refused f => .refused f

section
variable {s : State} {i : Instr}

/-- An instruction other than CXNN neither reads the supply nor changes it. -/
theorem exec_supplyRandom (hi : ∀ x nn, i ≠ .rnd x nn) :
    exec i (s.supplyRandom r) = Result.supplyRandom r (exec i s) := by
  cases i with
  | rnd x nn => exact absurd rfl (hi x nn)
  | cls | nop | jp | jpV0 | ldImm | addImm | ldReg | or | and | xor | addReg | sub | shr | subn | shl | ldI
  | ldVxDt | ldDtVx | ldStVx | addIVx => rfl
  | seImm | sneImm | seReg | sneReg => exact congrArg _ (s.advance.skipIf_supplyRandom r _)
  | ret | call | ldFVx =>
    simp only [exec, execRet, execCall, execLdFVx, apply_ite (Result.supplyRandom r), apply_dite (Result.supplyRandom r)]
    rfl
  | skp x | sknp x =>
    simp only [exec, execSkp, execSknp, State.supplyRandom_getV, State.supplyRandom_keyNamed]
    split
    · rfl
    · exact congrArg _ (s.advance.skipIf_supplyRandom r _)
  | ldVxK x =>
    simp only [exec, execLdVxK, State.supplyRandom_params]
    split
    · exact congrArg _ (s.keyWaitPress_supplyRandom x r)
    · exact congrArg _ (s.keyWaitPressRelease_supplyRandom x r)
  | drw | ldBVx =>
    simp only [exec, execDrw, execLdBVx, State.supplyRandom_dataAddr]
    split <;> rfl
  | ldMemVx x =>
    simp only [exec, execLdMemVx, State.supplyRandom_dataAddr]
    split
    · rfl
    · exact congrArg _ ((s.advance.writeBytes s.dataAddr (s.regsUpTo x)).ldstIncrement_supplyRandom x r)
  | ldVxMem x =>
    simp only [exec, execLdVxMem, State.supplyRandom_dataAddr]
    split
    · rfl
    · exact congrArg _ ((s.advance.loadRegsUpTo x).ldstIncrement_supplyRandom x r)

/-- The part of a step before the instruction runs does not read the supply (60_exceptions.md R173). -/
theorem State.fetchDecode_supplyRandom :
    (s.supplyRandom r).fetchDecode = s.fetchDecode.map (·.supplyRandom r) id := by
  simp only [State.fetchDecode, State.supplyRandom_fault, State.supplyRandom_pc, State.supplyRandom_params,
    State.supplyRandom_fetchWord, apply_ite (Sum.map _ _)]
  refine if_congr Iff.rfl rfl ?_
  split
  · rfl
  · split <;> rfl

/-- The instruction that runs is the one the fetched word decodes to. -/
theorem State.decode_of_fetchDecode (h : s.fetchDecode = .inr i) : decode s.params.opset s.fetchWord = some i := by
  unfold State.fetchDecode at h
  split at h
  · cases h
  · split at h
    · cases h
    · split at h
      · cases h
      · next decoded => rw [decoded, Sum.inr.inj h]

/-- A step whose word is not CXNN neither reads the supply nor changes it. -/
theorem step_supplyRandom (h : ∀ x nn, decode s.params.opset s.fetchWord ≠ some (.rnd x nn)) :
    step (s.supplyRandom r) = Result.supplyRandom r (step s) := by
  rw [step, step, State.fetchDecode_supplyRandom]
  cases hd : s.fetchDecode with
  | inl t => rfl
  | inr i =>
    exact exec_supplyRandom r fun x nn isRnd =>
      h x nn ((State.decode_of_fetchDecode hd).trans (congrArg some isRnd))

end

/-! ### The host's step -/

section
variable {s : State} {x : Reg} {nn : Byte}

/-- The host drops its byte after the step, so it does not see a supply that the step leaves alone (60_exceptions.md R190). -/
theorem hostOp_step_eq_of_supplyRandom {a : Result} (h : ∀ r, step (s.supplyRandom r) = Result.supplyRandom r a)
    (r r' : Byte) : hostOp (.step r) s = hostOp (.step r') s := by
  simp only [hostOp, State.hostStep, h]
  cases a <;> rfl

/-- A step that leaves no fault reports `ok` (60_exceptions.md R190). -/
theorem State.stepReply_of_fault_eq_none (h : s.fault = none) : s.stepReply = .ok := by
  rw [State.stepReply, h]

/-- A host's step that runs CXNN writes the byte it was sent, masked (44_alu.md R145, R146). -/
theorem hostOp_step_of_rnd (noFault : s.fault = none) (inMemory : s.pc.toNat + 1 < 4096)
    (isRnd : decode s.params.opset s.fetchWord = some (.rnd x nn)) :
    hostOp (.step r) s
      = .next (((s.supplyRandom r).advance.dropRandom.setV x (r &&& nn)).dropSupply, .ok) := by
  have runs : step (s.supplyRandom r) = exec (.rnd x nn) (s.supplyRandom r) := step_eq_exec noFault inMemory isRnd
  rw [exec_rnd, State.supplyRandom_randomByte] at runs
  rw [hostOp_step_of_step s runs, State.stepReply_of_fault_eq_none]
  exact noFault

end

/-! ### The obligations -/

/-- Settles O38: a step without CXNN commutes with the supply, and one with it writes the byte supplied. -/
theorem randomByteReachesOnlyRnd : Obligations.RandomByteReachesOnlyRnd := fun s r r' =>
  ⟨fun other => hostOp_step_eq_of_supplyRandom (fun q => step_supplyRandom q other) r r',
    fun x _ noFault inMemory isRnd =>
      ⟨_, hostOp_step_of_rnd r noFault inMemory isRnd, State.setV_getV_same (s.supplyRandom r).advance.dropRandom x _⟩⟩

/-- Settles O31: the words are those of rows 9 and 11, and each effect is one write of `V[X]`. -/
theorem loadsIntoARegister : Obligations.LoadsIntoARegister := fun x y nn s =>
  ⟨fun _ => ⟨decode_ofNat_of_toNat_encode (formXNN_toNat_sum _ x nn) rfl,
      decode_ofNat_of_toNat_encode (formXYN_toNat_sum _ x y 0) rfl⟩,
    ⟨_, exec_ldImm s x nn, rfl, State.setV_getV_same _ x nn, s.advance_setV_frame x nn⟩,
    ⟨_, exec_ldReg s x y, rfl, State.setV_getV_same _ x _, s.advance_setV_frame x _⟩⟩

/-- Settles O32: the word is row 10's, and the byte written is the wrapped sum. -/
theorem addImmediateWrapsWithoutAFlag : Obligations.AddImmediateWrapsWithoutAFlag := fun x nn s =>
  ⟨fun _ => decode_ofNat_of_toNat_encode (formXNN_toNat_sum _ x nn) rfl,
    ⟨_, exec_addImm s x nn, rfl, by rw [State.setV_getV_same, BitVec.toNat_add], s.advance_setV_frame x _⟩⟩

/-- Settles O37: the byte masked is the source's next one, and the source is left without it. -/
theorem rndMasksOneRandomByte : Obligations.RndMasksOneRandomByte := by
  intro x nn s
  refine ⟨_, exec_rnd s x nn, rfl, fun r rest supplied => ?_, fun empty => ?_, rfl, s.advance_dropRandom_setV_frame x _⟩
  · exact ⟨by rw [State.setV_getV_same, State.randomByte_of_cons supplied], congrArg List.tail supplied⟩
  · exact ⟨by rw [State.setV_getV_same, State.randomByte_of_nil empty], congrArg List.tail empty⟩

end Sys2Proof.Machine
end

section
/-! PROOFS. The index load ANNN (45_index_memory.md R150): the fetch's advance and then one write of `I`. -/

namespace Sys2Proof.Machine

/-- After the fetch's advance, a write of `I` is the only change: the rest is the frame of a `pc` two further. -/
theorem State.advance_setI_frame (s : State) (w : Word) : Frame { i := True } s (s.advance.setI w) :=
  { s.advance_setPc_frame (s.pc + 2) with i := fun notWritten => absurd trivial notWritten }

theorem exec_ldI (nnn : Addr12) (s : State) : exec (.ldI nnn) s = .next (s.advance.setI (zextNNN nnn)) := rfl

/-- Settles O39: the word is row 21's, and the state LD I answers is the advanced one with `NNN` in `I`. -/
theorem ldISetsTheIndex : Obligations.LdISetsTheIndex := fun nnn s =>
  ⟨fun _ => decode_ofNat_of_toNat_encode (formNNN_toNat _ nnn) rfl,
    _, exec_ldI nnn s, rfl, zextNNN_toNat nnn, s.advance_setI_frame _⟩

end Sys2Proof.Machine
end

section
/-! PROOFS. The step on an unknown opcode (60_exceptions.md R179), read off the model's `step_cases` as `step_eq_exec` is. -/

namespace Sys2Proof.Machine

/-- The third case of 60_exceptions.md R173's priority: no latched fault, a fetch in memory and a word that decodes to
nothing. -/
theorem step_eq_latch_unknownOpcode {s : State} (hf : s.fault = none) (hp : s.pc.toNat + 1 < 4096)
    (hd : decode s.params.opset s.fetchWord = none) :
    step s = .next (s.latch .unknownOpcode (some s.fetchWord) none) := by
  obtain ⟨latched, -⟩ | ⟨-, pastMemory, -⟩ | ⟨-, -, -, latches⟩ | ⟨-, -, i, decoded, -⟩ := step_cases s
  · exact absurd hf latched
  · omega
  · exact latches
  · rw [hd] at decoded
    cases decoded

/-- Settles O9: the bytes it reads at `pc` are the word a step fetches, and latching is the one change. -/
theorem unknownOpcodeFaults : Obligations.UnknownOpcodeFaults := by
  intro s hf hp hd
  rw [← s.fetchWord_eq_append] at hd ⊢
  exact step_eq_latch_unknownOpcode hf hp hd

end Sys2Proof.Machine
end

section
/-! PROOFS. The timer tick and the framebuffer read (60_exceptions.md R185, R186, R194). One tick takes a timer one nearer to
0, which truncated subtraction says in one expression; over many ticks the subtractions add up. -/

namespace Sys2Proof.Machine

variable (s : State) (n : Nat)

/-! ### One tick -/

/-- Counting down by one when not 0 is subtraction of numbers, which stops at 0 (60_exceptions.md R185). -/
theorem byte_countdown_toNat (b : Byte) : (if b = 0 then b else b - 1).toNat = b.toNat - 1 := by
  split
  next isZero =>
    rw [isZero]
    rfl
  next => bv_omega

theorem State.tickTimers_dt_toNat : s.tickTimers.1.dt.toNat = s.dt.toNat - 1 := byte_countdown_toNat s.dt

theorem State.tickTimers_st_toNat : s.tickTimers.1.st.toNat = s.st.toNat - 1 := byte_countdown_toNat s.st

/-- The whole operation `tick_timers`: the sound boundary is the tick that finds `ST` at 1 (60_exceptions.md R185). -/
theorem hostOp_tickTimers :
    hostOp .tickTimers s = .next (s.tickTimers.1, .soundBoundary (decide (s.st.toNat = 1))) := by
  have signal : s.tickTimers.2 = decide (s.st.toNat = 1) := decide_eq_decide.2 BitVec.toNat_inj.symm
  rw [← signal]
  rfl

/-- A tick changes the timers and nothing else, whether a fault is latched or not (60_exceptions.md R185, R187). -/
theorem State.tickTimers_frame : Frame { dt := True, st := True } s s.tickTimers.1 where
  v _ _ := rfl
  i _ := rfl
  sp _ := rfl
  stack _ _ _ := rfl
  mem _ _ := rfl
  fb _ _ _ := rfl
  dt notWritten := absurd trivial notWritten
  st notWritten := absurd trivial notWritten
  kwait _ := rfl
  random _ := ⟨rfl, rfl⟩
  key := rfl
  fault := rfl
  params := rfl

/-! ### Many ticks -/

/-- The last tick of a row, where `State.ticks` recurses on the first. -/
theorem State.ticks_succ : s.ticks (n + 1) = (s.ticks n).tickTimers.1 := by
  induction n generalizing s with
  | zero => rfl
  | succ n ih => exact ih s.tickTimers.1

/-- A timer that every tick counts down has lost `n` after `n` ticks, or is at 0 and stays there. -/
theorem State.ticks_toNat {timer : State → Byte}
    (counts : ∀ t : State, (timer t.tickTimers.1).toNat = (timer t).toNat - 1) :
    (timer (s.ticks n)).toNat = (timer s).toNat - n := by
  induction n with
  | zero => rfl
  | succ n ih => rw [s.ticks_succ, counts, ih, Nat.sub_sub]

theorem State.ticks_dt_toNat : (s.ticks n).dt.toNat = s.dt.toNat - n :=
  s.ticks_toNat n (timer := State.dt) State.tickTimers_dt_toNat

theorem State.ticks_st_toNat : (s.ticks n).st.toNat = s.st.toNat - n :=
  s.ticks_toNat n (timer := State.st) State.tickTimers_st_toNat

/-! ### The obligations -/

/-- Settles O51: the tick's answer and what it leaves unchanged. -/
theorem tickCountsBothTimersDown : Obligations.TickCountsBothTimersDown := fun s =>
  ⟨_, hostOp_tickTimers s, s.tickTimers_dt_toNat, s.tickTimers_st_toNat, rfl, s.tickTimers_frame⟩

/-- Settles O52: after `n` ticks `ST` is its first value less `n`, so the next tick finds it at 1 exactly when that value
is `n + 1`. -/
theorem onlyTheTickNumberedStSignals : Obligations.OnlyTheTickNumberedStSignals := by
  intro n s
  have atOne : (s.ticks n).st.toNat = 1 ↔ s.st.toNat = n + 1 := by
    rw [s.ticks_st_toNat]
    omega
  refine ⟨s.ticks_dt_toNat n, s.ticks_st_toNat n, ?_⟩
  rw [hostOp_tickTimers, s.ticks_succ, decide_eq_decide.2 atOne]

/-- Settles O56: the cells read are the framebuffer itself (10_state.md R30). -/
theorem readFramebufferReturnsEveryCell : Obligations.ReadFramebufferReturnsEveryCell := fun s =>
  ⟨s.fb, rfl, fun _ _ => rfl⟩

end Sys2Proof.Machine
end

section
/-! PROOFS. Reset (70_reset_and_hazards.md R200). It answers the constructed state of the machine's own parameters (and keeps
the host's byte source, log 2), so each element is read off `State.construct`; memory is the reset image, the font and
then zeros. -/

namespace Sys2Proof.Machine

/-! ### The reset image (10_state.md R29, R38) -/

theorem resetByte_of_lt (font : Font) {a : Nat} (inFont : a < 80) : resetByte font a = font[a / 5][a % 5] :=
  dif_pos ⟨Nat.zero_le a, inFont⟩

theorem resetByte_of_le (font : Font) {a : Nat} (pastFont : 80 ≤ a) : resetByte font a = 0 :=
  dif_neg fun inFont => Nat.not_lt.2 pastFont inFont.2

/-- The font region holds the glyphs one after another, five bytes each. -/
theorem resetByte_glyph (font : Font) (d : Fin 16) (k : Fin 5) :
    resetByte font (5 * d.val + k.val) = font[d][k] := by
  have glyph : (5 * d.val + k.val) / 5 = d.val := by omega
  have row : (5 * d.val + k.val) % 5 = k.val := by omega
  simp only [resetByte_of_lt font (show 5 * d.val + k.val < 80 by omega), glyph, row, Fin.getElem_fin]

/-! ### The constructed state -/

section
variable (p : Params) (n : Nat)

theorem State.construct_getV (r : Reg) : (State.construct p n).getV r = 0 := Vector.getElem_replicate r.isLt

theorem State.construct_stack {k : Nat} (h : k < 16) : (State.construct p n).stack[k] = 0 :=
  Vector.getElem_replicate h

theorem State.construct_key (k : Reg) : (State.construct p n).key[k] = false := Vector.getElem_replicate k.isLt

end

/-! ### The operation -/

/-- `construct` and `reset` are one operation (R200). -/
theorem hostOp_reset_or_construct {o : HostOp} (ho : o = .reset ∨ o = .construct) (s : State) :
    hostOp o s = .next (s.resetInPlace, .done) := by
  obtain rfl | rfl := ho
  · rfl
  · rfl

/-- Reset leaves no byte written, so memory reads as the reset image. -/
theorem State.resetInPlace_readByte (s : State) (a : Nat) : s.resetInPlace.readByte a = resetByte s.params.font a := rfl

/-- Settles O53: element by element of R200, on the state both operations answer. -/
theorem resetSetsTheWholeState : Obligations.ResetSetsTheWholeState := by
  intro s o ho
  have font (d : Fin 16) (k : Fin 5) : s.resetInPlace.readByte (5 * d.val + k.val) = s.params.font[d][k] := by
    rw [s.resetInPlace_readByte, resetByte_glyph]
  have zeros (a : Nat) (pastFont : 80 ≤ a) (_ : a < 4096) : s.resetInPlace.readByte a = 0 := by
    rw [s.resetInPlace_readByte, resetByte_of_le _ pastFont]
  exact ⟨s.resetInPlace, hostOp_reset_or_construct ho s, State.construct_getV s.params s.draws,
    rfl, rfl, fun _ => State.construct_stack s.params s.draws, rfl, rfl, font, zeros, Framebuffer.get_clear,
    State.construct_key s.params s.draws, rfl, rfl, rfl⟩

end Sys2Proof.Machine
end

section
/-! PROOFS. The invariant of the machine: it holds at reset, and a step keeps it. What an instruction can do is the model's
`exec_cases` (a fault of its own, or quiet) and what a step can do its `step_cases`; each of their cases keeps the
invariant. -/

namespace Sys2Proof.Machine

variable {s t : State} {i : Instr}

/-! ### What keeps the invariant -/

/-- A latched record names `pc` (60_exceptions.md R174), so its shape is all that is left to check. -/
theorem State.Inv.latch (h : s.Inv) {kind : FaultKind} {word : Option Word} {detail : Option Nat}
    (shape : FaultRecord.wf ⟨kind, s.pc, word, detail⟩ = true) : (s.latch kind word detail).Inv where
  memory := h.memory
  stackPointer := h.stackPointer
  keyWait := h.keyWait
  record f latched := by
    obtain rfl := Option.some.inj latched
    exact ⟨rfl, shape⟩

theorem Faulted.keeps_inv (h : s.Inv) (faults : Faulted i s t) : t.Inv := by
  obtain ⟨kind, detail, -, rfl, shape⟩ := faults
  exact h.latch shape

theorem Quiet.keeps_inv (h : s.Inv) (noFault : s.fault = none) (quiet : Quiet s t) : t.Inv where
  memory := by
    rw [quiet.params]
    exact quiet.memory h.memory
  stackPointer := quiet.stackPointer h.stackPointer
  keyWait press := by
    rw [quiet.params] at press
    rw [quiet.keyWait press, h.keyWait press]
  record f latched := by
    rw [quiet.fault, noFault] at latched
    cases latched

theorem exec_keeps_inv (h : s.Inv) (noFault : s.fault = none) (runs : exec i s = .next t) : t.Inv := by
  obtain faults | quiet := exec_cases runs
  · exact faults.keeps_inv h
  · exact quiet.keeps_inv h noFault

/-- The record of a fetch fault has its shape: no word, and an address past memory (20_memory.md R56). -/
theorem fetchFault_wf {pc : Word} (pastMemory : 0xFFF ≤ pc.toNat) :
    FaultRecord.wf ⟨.memoryOutOfBounds, pc, none, some (max pc.toNat Config.memSize)⟩ = true := by
  simp only [FaultRecord.wf, Bool.and_eq_true, decide_eq_true_iff]
  exact ⟨le_max_right _ _, pastMemory⟩

theorem step_keeps_inv (h : s.Inv) (steps : step s = .next t) : t.Inv := by
  obtain ⟨-, e⟩ | ⟨-, pastMemory, e⟩ | ⟨-, -, -, e⟩ | ⟨noFault, -, i, -, e⟩ := step_cases s
  · obtain rfl := next_inj (e.symm.trans steps)
    exact h
  · obtain rfl := next_inj (e.symm.trans steps)
    exact h.latch (fetchFault_wf pastMemory)
  · obtain rfl := next_inj (e.symm.trans steps)
    exact h.latch rfl
  · exact exec_keeps_inv h noFault (e.symm.trans steps)

/-- Settles O14, by the cases of a step. -/
theorem stepKeepsTheInvariant : Obligations.StepKeepsTheInvariant := fun _ _ => step_keeps_inv

/-! ### Where it holds from the start -/

/-- No byte is written, the stack is empty, no key is waited for and no fault is latched (10_state.md R38). -/
theorem State.construct_inv (p : Params) (n : Nat) : (State.construct p n).Inv where
  memory := Memory.wf_nil
  stackPointer := Nat.zero_le 16
  keyWait _ := rfl
  record _ latched := nomatch latched

/-- Settles O15: reset is the machine constructed with the default parameters. -/
theorem constructedMachineMeetsTheInvariant : Obligations.ConstructedMachineMeetsTheInvariant :=
  ⟨State.construct_inv, State.construct_inv Config.defaultParams 0⟩

end Sys2Proof.Machine
end

section
/-! PROOFS. The stack and the other control flow: 0000, 00EE, 2NNN and BNNN (42_control_flow.md R110, R111, R113, R114), and
what calls and returns do together. -/

namespace Sys2Proof.Machine

/-! ### 0000 and BNNN -/

section
variable (s : State) (nnn : Addr12)

theorem exec_nop : exec .nop s = .next s.advance := rfl

/-- Settles O22: the fetch's advance is the whole effect. -/
theorem nopOnlyAdvances : Obligations.NopOnlyAdvances := fun s =>
  ⟨_, exec_nop s, rfl, s.advance_setPc_frame (s.pc + 2)⟩

theorem exec_jpV0 :
    exec (.jpV0 nnn) s = .next (s.advance.setPc (zextNNN nnn + zextByte (s.getV 0))) := rfl

theorem zextByte_toNat (b : Byte) : (zextByte b).toNat = b.toNat :=
  BitVec.toNat_setWidth_of_le (by decide)

/-- The sum of BNNN is below 2^16, so it does not wrap (42_control_flow.md R114). -/
theorem zextNNN_add_zextByte_toNat (b : Byte) :
    (zextNNN nnn + zextByte b).toNat = nnn.toNat + b.toNat := by
  have := nnn.isLt
  have := b.isLt
  rw [BitVec.toNat_add, zextNNN_toNat, zextByte_toNat]
  omega

/-- Settles O24: a jump whose target is the unmasked sum. -/
theorem jpV0SetsPcToTheSum : Obligations.JpV0SetsPcToTheSum := fun nnn s =>
  ⟨_, exec_jpV0 s nnn, zextNNN_add_zextByte_toNat nnn _, s.advance_setPc_frame _⟩

end

/-! ### CALL, by where `SP` stands -/

section
variable {s : State} (nnn : Addr12)

/-- The state CALL answers when a slot is free: `p + 2` pushed, `NNN` in `pc` (42_control_flow.md R113). -/
def State.called (s : State) (nnn : Addr12) (free : s.sp.toNat < 16) : State :=
  (s.advance.push (s.pc + 2) free).setPc (zextNNN nnn)

theorem exec_call_of_lt (free : s.sp.toNat < 16) : exec (.call nnn) s = .next (s.called nnn free) := by
  have notFull : s.sp ≠ 16 := by bv_omega
  simp only [exec, execCall, if_neg notFull]
  exact dif_pos free

theorem exec_call_of_eq (full : s.sp.toNat = 16) :
    exec (.call nnn) s = .next (s.faulted (.call nnn) .stackOverflow none) :=
  if_pos (BitVec.eq_of_toNat_eq full)

theorem exec_call_of_gt (past : 16 < s.sp.toNat) : exec (.call nnn) s = .fault .stackPointerIllegal := by
  have notFull : s.sp ≠ 16 := by bv_omega
  simp only [exec, execCall, if_neg notFull]
  exact dif_neg (Nat.not_lt.2 past.le)

theorem State.called_sp_toNat (free : s.sp.toNat < 16) : (s.called nnn free).sp.toNat = s.sp.toNat + 1 := by
  show (s.sp + 1).toNat = _
  bv_omega

/-- The slot `SP` pointed at holds the address after the call. -/
theorem State.called_stack_top (free : s.sp.toNat < 16) :
    (s.called nnn free).stack[s.sp.toNat] = s.pc + 2 :=
  Vector.getElem_set_self free

/-- A call changes `SP` and its slot and, but for `pc`, nothing else. -/
theorem State.called_frame (free : s.sp.toNat < 16) :
    Frame { sp := True, stack := fun k => k = s.sp.toNat } s (s.called nnn free) :=
  { s.advance_setPc_frame (zextNNN nnn) with
    sp := fun notWritten => absurd trivial notWritten
    stack := fun _ _ other => Vector.getElem_set_ne free _ (Ne.symm other) }

/-- Settles O25, by where `SP` stands. -/
theorem callPushesTheReturnAddress : Obligations.CallPushesTheReturnAddress := fun nnn _ =>
  ⟨fun free => ⟨_, exec_call_of_lt nnn free, zextNNN_toNat nnn, State.called_stack_top nnn free,
      State.called_sp_toNat nnn free, State.called_frame nnn free⟩,
    exec_call_of_eq nnn, exec_call_of_gt nnn⟩

end

/-! ### RET, by where `SP` stands -/

section
variable {s : State}

/-- Where `SP` names a slot to pop, the slot is the one below it (10_state.md R27). -/
theorem sp_sub_one_toNat (pushed : 0 < s.sp.toNat) : (s.sp - 1).toNat = s.sp.toNat - 1 := by
  bv_omega

theorem exec_ret_of_pushed (pushed : 0 < s.sp.toNat) (inRange : s.sp.toNat ≤ 16) :
    ∃ slot : (s.advance.sp - 1).toNat < 16, exec .ret s = .next (s.advance.popPc slot) := by
  have notEmpty : s.sp ≠ 0 := by bv_omega
  have slot : (s.sp - 1).toNat < 16 := by
    rw [sp_sub_one_toNat pushed]
    omega
  refine ⟨slot, ?_⟩
  simp only [exec, execRet, if_neg notEmpty]
  exact dif_pos slot

theorem exec_ret_of_empty (empty : s.sp.toNat = 0) :
    exec .ret s = .next (s.faulted .ret .stackUnderflow none) :=
  if_pos (BitVec.eq_of_toNat_eq empty)

theorem exec_ret_of_gt (past : 16 < s.sp.toNat) : exec .ret s = .fault .stackPointerIllegal := by
  have notEmpty : s.sp ≠ 0 := by bv_omega
  have noSlot : ¬ (s.sp - 1).toNat < 16 := by
    rw [sp_sub_one_toNat (by omega)]
    omega
  simp only [exec, execRet, if_neg notEmpty]
  exact dif_neg noSlot

/-- A pop changes `SP` and, but for `pc`, nothing else: the slot keeps its value (the spec's decision D28). -/
theorem State.advance_popPc_frame (slot : (s.advance.sp - 1).toNat < 16) :
    Frame { sp := True } s (s.advance.popPc slot) :=
  { s.advance_setPc_frame s.pc with sp := fun notWritten => absurd trivial notWritten }

/-- What a return does from a stack that has an entry: the top slot goes to `pc`. -/
theorem exec_ret_pops (pushed : 0 < s.sp.toNat) (inRange : s.sp.toNat ≤ 16) :
    ∃ t, exec .ret s = .next t ∧ t.pc = s.stack[s.sp.toNat - 1] ∧ t.sp.toNat + 1 = s.sp.toNat ∧
      Frame { sp := True } s t := by
  obtain ⟨slot, runs⟩ := exec_ret_of_pushed pushed inRange
  have below : (s.sp - 1).toNat = s.sp.toNat - 1 := sp_sub_one_toNat pushed
  refine ⟨_, runs, ?_, ?_, State.advance_popPc_frame slot⟩
  · show s.stack[(s.sp - 1).toNat] = _
    simp only [below]
  · show (s.sp - 1).toNat + 1 = _
    omega

/-- Settles O26, by where `SP` stands. -/
theorem retPopsIntoPc : Obligations.RetPopsIntoPc := fun _ =>
  ⟨fun inRange => exec_ret_pops inRange.1 inRange.2, exec_ret_of_empty, exec_ret_of_gt⟩

end

/-! ### Calls and returns nested -/

/-- What two states agree on with one in between, the first and the last agree on. -/
theorem Frame.trans {w : Writes} {s t u : State} (st : Frame w s t) (tu : Frame w t u) : Frame w s u where
  v r h := (tu.v r h).trans (st.v r h)
  i h := (tu.i h).trans (st.i h)
  sp h := (tu.sp h).trans (st.sp h)
  stack k hk h := (tu.stack k hk h).trans (st.stack k hk h)
  mem a h := (tu.mem a h).trans (st.mem a h)
  fb h x y := (tu.fb h x y).trans (st.fb h x y)
  dt h := (tu.dt h).trans (st.dt h)
  st h := (tu.st h).trans (st.st h)
  kwait h := (tu.kwait h).trans (st.kwait h)
  random h := ⟨(tu.random h).1.trans (st.random h).1, (tu.random h).2.trans (st.random h).2⟩
  key := tu.key.trans st.key
  fault := tu.fault.trans st.fault
  params := tu.params.trans st.params

theorem execAll_cons {i : Instr} {is : List Instr} {s t : State} (runs : exec i s = .next t) :
    execAll (i :: is) s = execAll is t := by
  rw [execAll, runs]

theorem execAll_append {is js : List Instr} {s t : State} (runs : execAll is s = .next t) :
    execAll (is ++ js) s = execAll js t := by
  induction is generalizing s with
  | nil => rw [← next_inj runs, List.nil_append]
  | cons i is ih =>
    rw [execAll] at runs
    rw [List.cons_append, execAll]
    split at runs
    · exact ih runs
    · cases runs
    · cases runs

/-- Calls to each of the targets, and then as many returns. -/
def nested (targets : List Addr12) : List Instr :=
  targets.map Instr.call ++ List.replicate targets.length .ret

/-- The first call and the last return enclose the rest. -/
theorem nested_cons (nnn : Addr12) (targets : List Addr12) :
    nested (nnn :: targets) = .call nnn :: (nested targets ++ [.ret]) := by
  rw [nested, nested, List.map_cons, List.length_cons, List.replicate_succ', List.cons_append, List.append_assoc]

/-- A call, a run that leaves the stack below it alone, and a return come back to the instruction after the call. -/
theorem execAll_call_ret (nnn : Addr12) {is : List Instr} {s t : State} (free : s.sp.toNat < 16)
    (body : execAll is (s.called nnn free) = .next t)
    (frame : Frame { stack := fun k => (s.called nnn free).sp.toNat ≤ k } (s.called nnn free) t) :
    ∃ u, execAll (.call nnn :: (is ++ [.ret])) s = .next u ∧ u.pc = s.pc + 2 ∧
      Frame { stack := fun k => s.sp.toNat ≤ k } s u := by
  have depth : (s.called nnn free).sp.toNat = s.sp.toNat + 1 := State.called_sp_toNat nnn free
  have sameSp : t.sp.toNat = s.sp.toNat + 1 := by rw [frame.sp id, depth]
  have top : t.stack[s.sp.toNat] = s.pc + 2 := by
    rw [frame.stack _ free (by rw [depth]; omega), State.called_stack_top]
  obtain ⟨u, returns, pops, lessSp, popFrame⟩ := exec_ret_pops (s := t) (by omega) (by omega)
  have backSp : u.sp = s.sp := BitVec.eq_of_toNat_eq (by omega)
  have callFrame : Frame { sp := True, stack := fun k => s.sp.toNat ≤ k } s (s.called nnn free) :=
    { State.called_frame nnn free with
      stack := fun k hk below => (State.called_frame nnn free).stack k hk (by omega) }
  have bodyFrame : Frame { sp := True, stack := fun k => s.sp.toNat ≤ k } (s.called nnn free) t :=
    { frame with
      sp := fun _ => frame.sp id
      stack := fun k hk below => frame.stack k hk (by rw [depth]; omega) }
  have retFrame : Frame { sp := True, stack := fun k => s.sp.toNat ≤ k } t u :=
    { popFrame with stack := fun k hk _ => popFrame.stack k hk id }
  refine ⟨u, ?_, ?_, { (callFrame.trans bodyFrame).trans retFrame with sp := fun _ => backSp }⟩
  · rw [execAll_cons (exec_call_of_lt nnn free), execAll_append body, execAll_cons returns, execAll]
  · simp only [pops, sameSp, Nat.add_sub_cancel, top]

/-- Calls as deep as the stack has room for, and as many returns, leave all but the slots they used as it was. -/
theorem execAll_nested (targets : List Addr12) (s : State) (room : s.sp.toNat + targets.length ≤ 16) :
    ∃ t, execAll (nested targets) s = .next t ∧ (targets ≠ [] → t.pc = s.pc + 2) ∧
      Frame { stack := fun k => s.sp.toNat ≤ k } s t := by
  induction targets generalizing s with
  | nil =>
    exact ⟨s, rfl, fun nonempty => absurd rfl nonempty,
      { s.advance_setPc_frame s.pc with stack := fun _ _ _ => rfl }⟩
  | cons nnn targets ih =>
    rw [List.length_cons] at room
    have free : s.sp.toNat < 16 := by omega
    obtain ⟨t, body, -, frame⟩ := ih (s.called nnn free) (by rw [State.called_sp_toNat]; omega)
    obtain ⟨u, runs, back, frame⟩ := execAll_call_ret nnn free body frame
    exact ⟨u, by rw [nested_cons, runs], fun _ => back, frame⟩

/-- Settles O27, by induction on the targets: the first call and the last return enclose the rest. -/
theorem nestedCallsAndReturnsComeBack : Obligations.NestedCallsAndReturnsComeBack := by
  intro targets s nonempty room
  obtain ⟨t, runs, back, frame⟩ := execAll_nested targets s room
  exact ⟨t, runs, back nonempty, frame⟩

end Sys2Proof.Machine
end

section
/-! PROOFS. The key skips, the logic, the index register's arithmetic and the moves between a register, a timer and the
keypad (43_skips.md R124, R125; 44_alu.md R133 to R135; 45_index_memory.md R151, R152; 46_timers_keypad.md R160 to R163).
Each is the fetch's advance and one of the updates whose frame is proved above, or a write of one timer or of the key
wait. -/

namespace Sys2Proof.Machine

variable (s : State) (x y : Reg)

/-! ### Logic -/

theorem exec_or : exec (.or x y) s = .next (s.advance.setV x (s.getV x ||| s.getV y)) := rfl

theorem exec_and : exec (.and x y) s = .next (s.advance.setV x (s.getV x &&& s.getV y)) := rfl

theorem exec_xor : exec (.xor x y) s = .next (s.advance.setV x (s.getV x ^^^ s.getV y)) := rfl

/-- Settles O33: one write of `V[X]`, whose byte is the operation bit by bit. -/
theorem logicIsBitwiseAndLeavesVF : Obligations.LogicIsBitwiseAndLeavesVF := fun x y s =>
  ⟨⟨_, exec_or s x y, rfl, s.advance_setV_frame x _, fun _ _ => by rw [State.setV_getV_same, BitVec.getLsbD_or]⟩,
    ⟨_, exec_and s x y, rfl, s.advance_setV_frame x _, fun _ _ => by rw [State.setV_getV_same, BitVec.getLsbD_and]⟩,
    ⟨_, exec_xor s x y, rfl, s.advance_setV_frame x _, fun _ _ => by rw [State.setV_getV_same, BitVec.getLsbD_xor]⟩⟩

/-! ### The key skips -/

section
variable {s : State} {x : Reg}

theorem exec_skp_of_lt (isKey : (s.getV x).toNat < 16) :
    exec (.skp x) s = .next (s.advance.skipIf s.key[(s.getV x).toNat]) := by
  simp only [exec, execSkp, State.keyNamed_of_lt isKey]

theorem exec_sknp_of_lt (isKey : (s.getV x).toNat < 16) :
    exec (.sknp x) s = .next (s.advance.skipIf !s.key[(s.getV x).toNat]) := by
  simp only [exec, execSknp, State.keyNamed_of_lt isKey]

theorem exec_skp_of_ge (noKey : 16 ≤ (s.getV x).toNat) :
    exec (.skp x) s = .next (s.faulted (.skp x) .keypadIndexOutOfRange (some (s.getV x).toNat)) := by
  simp only [exec, execSkp, State.keyNamed_of_ge noKey, raiseFault_eq, State.faulted]

theorem exec_sknp_of_ge (noKey : 16 ≤ (s.getV x).toNat) :
    exec (.sknp x) s = .next (s.faulted (.sknp x) .keypadIndexOutOfRange (some (s.getV x).toNat)) := by
  simp only [exec, execSknp, State.keyNamed_of_ge noKey, raiseFault_eq, State.faulted]

end

/-- A skip when a flag is off. -/
theorem State.advance_skipIf_not_pc (c : Bool) :
    (s.advance.skipIf !c).pc = if c then s.pc + 2 else s.pc + 4 := by
  rw [State.advance_skipIf_pc]
  cases c with
  | false => rfl
  | true => rfl

/-- Settles O30: the shared skip on the key's flag and on its negation, or the fault. -/
theorem keySkips : Obligations.KeySkips := fun _ s =>
  ⟨fun isKey =>
      ⟨⟨_, exec_skp_of_lt isKey, s.advance_skipIf_frame _, s.advance_skipIf_pc _⟩,
        ⟨_, exec_sknp_of_lt isKey, s.advance_skipIf_frame _, s.advance_skipIf_not_pc _⟩⟩,
    fun noKey => ⟨exec_skp_of_ge noKey, exec_sknp_of_ge noKey⟩⟩

/-! ### FX1E and FX29 -/

theorem exec_addIVx : exec (.addIVx x) s = .next (s.advance.setI (s.i + zextByte (s.getV x))) := rfl

/-- Settles O40: one write of `I`, of the wrapped sum. -/
theorem addIWrapsWithoutAFlag : Obligations.AddIWrapsWithoutAFlag := fun x s =>
  ⟨_, exec_addIVx s x, rfl, by rw [State.setI_i, BitVec.toNat_add, zextByte_toNat], s.advance_setI_frame _⟩

section
variable {s : State} {x : Reg}

theorem exec_ldFVx_of_le (isDigit : (s.getV x).toNat ≤ 15) :
    exec (.ldFVx x) s = .next (s.advance.setI (glyphAddr (s.getV x))) :=
  if_neg (Nat.not_lt.2 isDigit)

theorem exec_ldFVx_of_gt (noDigit : 15 < (s.getV x).toNat) :
    exec (.ldFVx x) s = .next (s.faulted (.ldFVx x) .fontDigitOutOfRange (some (s.getV x).toNat)) :=
  if_pos noDigit

end

/-- The font starts at 0, and a glyph is five bytes (10_state.md R29), so no glyph's address wraps. -/
theorem glyphAddr_toNat (d : Byte) : (glyphAddr d).toNat = 5 * d.toNat := by
  have := d.isLt
  rw [glyphAddr, BitVec.toNat_ofNat, Config.fontBase, Config.glyphLen]
  omega

/-- Settles O41: one write of `I`, or the fault. -/
theorem ldFPointsAtTheGlyph : Obligations.LdFPointsAtTheGlyph := fun _ s =>
  ⟨fun isDigit => ⟨_, exec_ldFVx_of_le isDigit, rfl, glyphAddr_toNat _, s.advance_setI_frame _⟩, exec_ldFVx_of_gt⟩

/-! ### The timers -/

theorem exec_ldVxDt : exec (.ldVxDt x) s = .next (s.advance.setV x s.dt) := rfl

theorem exec_ldDtVx : exec (.ldDtVx x) s = .next (s.advance.setDt (s.getV x)) := rfl

theorem exec_ldStVx : exec (.ldStVx x) s = .next (s.advance.setSt (s.getV x)) := rfl

theorem State.advance_setDt_frame (b : Byte) : Frame { dt := True } s (s.advance.setDt b) :=
  { s.advance_setPc_frame (s.pc + 2) with dt := fun notWritten => absurd trivial notWritten }

theorem State.advance_setSt_frame (b : Byte) : Frame { st := True } s (s.advance.setSt b) :=
  { s.advance_setPc_frame (s.pc + 2) with st := fun notWritten => absurd trivial notWritten }

/-- Settles O48: each move is one write. -/
theorem timerMoves : Obligations.TimerMoves := fun x s =>
  ⟨⟨_, exec_ldVxDt s x, rfl, State.setV_getV_same _ x _, s.advance_setV_frame x _⟩,
    ⟨_, exec_ldDtVx s x, rfl, rfl, s.advance_setDt_frame _⟩,
    ⟨_, exec_ldStVx s x, rfl, rfl, s.advance_setSt_frame _⟩⟩

/-! ### The key wait FX0A -/

/-- A wait that goes on puts `pc` back, which leaves the state as it was (46_timers_keypad.md R161). -/
theorem State.advance_setPc_same : s.advance.setPc s.pc = s := rfl

/-- A key's index is a byte. -/
theorem byte_ofNat_key_toNat (k : Reg) : (BitVec.ofNat 8 k.val).toNat = k.val := by
  rw [BitVec.toNat_ofNat]
  omega

section
variable {s : State}

theorem exec_ldVxK_of_press (press : s.params.keywait = .press) :
    exec (.ldVxK x) s = .next (s.keyWaitPress x) := by
  simp only [exec, execLdVxK, press]

theorem exec_ldVxK_of_pressRelease (pressRelease : s.params.keywait = .pressRelease) :
    exec (.ldVxK x) s = .next (s.keyWaitPressRelease x) := by
  simp only [exec, execLdVxK, pressRelease]

/-! Under Press: a key is down, or none is. -/

theorem State.keyWaitPress_of_some {k : Reg} (h : s.leastKeyDown = some k) :
    s.keyWaitPress x = s.advance.setV x (BitVec.ofNat 8 k.val) := by
  rw [State.keyWaitPress, h]

theorem State.keyWaitPress_of_none (h : s.leastKeyDown = none) : s.keyWaitPress x = s := by
  rw [State.keyWaitPress, h, State.advance_setPc_same]

/-! Under PressRelease: no key is latched and one is down or none is, or one is latched and it is still down or up. -/

theorem State.keyWaitPressRelease_of_pressed {k : Reg} (idle : s.kwait = none) (h : s.leastKeyDown = some k) :
    s.keyWaitPressRelease x = (s.advance.setKwait (some k)).setPc s.pc := by
  simp only [State.keyWaitPressRelease, idle, h]

theorem State.keyWaitPressRelease_of_no_key (idle : s.kwait = none) (h : s.leastKeyDown = none) :
    s.keyWaitPressRelease x = s := by
  simp only [State.keyWaitPressRelease, idle, h, State.advance_setPc_same]

theorem State.keyWaitPressRelease_of_held {k : Reg} (latched : s.kwait = some k) (h : s.key[k] = true) :
    s.keyWaitPressRelease x = s := by
  simp only [State.keyWaitPressRelease, latched, h, if_true, State.advance_setPc_same]

theorem State.keyWaitPressRelease_of_released {k : Reg} (latched : s.kwait = some k) (h : s.key[k] = false) :
    s.keyWaitPressRelease x = (s.advance.setV x (BitVec.ofNat 8 k.val)).setKwait none := by
  simp only [State.keyWaitPressRelease, latched, h, Bool.false_eq_true, if_false]

end

/-- A key latched and `pc` put back: the latch is the one change. -/
theorem State.advance_setKwait_setPc_frame (k : Option Reg) (w : Word) :
    Frame { kwait := True } s ((s.advance.setKwait k).setPc w) :=
  { s.advance_setPc_frame w with kwait := fun notWritten => absurd trivial notWritten }

/-- A wait that ends changes `V[X]` and the latch. -/
theorem State.advance_setV_setKwait_frame (b : Byte) (k : Option Reg) :
    Frame { v := fun r => r = x, kwait := True } s ((s.advance.setV x b).setKwait k) :=
  { s.advance_setV_frame x b with kwait := fun notWritten => absurd trivial notWritten }

/-- Settles O49, by whether a key is down. -/
theorem keyWaitOnPress : Obligations.KeyWaitOnPress := by
  intro x s press
  rw [exec_ldVxK_of_press x press]
  constructor
  · intro k down least
    rw [State.keyWaitPress_of_some x (State.leastKeyDown_eq_some.2 ⟨down, least⟩)]
    refine ⟨_, rfl, rfl, ?_, s.advance_setV_frame x _⟩
    rw [State.setV_getV_same, byte_ofNat_key_toNat]
  · intro up
    rw [State.keyWaitPress_of_none x (State.leastKeyDown_eq_none.2 up)]

/-- Settles O50, by what is latched and which key is down. -/
theorem keyWaitOnPressAndRelease : Obligations.KeyWaitOnPressAndRelease := by
  intro x s pressRelease
  rw [exec_ldVxK_of_pressRelease x pressRelease]
  refine ⟨fun idle k down least => ?_, fun idle up => ?_, fun k latched down => ?_, fun k latched up => ?_⟩
  · rw [State.keyWaitPressRelease_of_pressed x idle (State.leastKeyDown_eq_some.2 ⟨down, least⟩)]
    exact ⟨_, rfl, rfl, rfl, s.advance_setKwait_setPc_frame _ _⟩
  · rw [State.keyWaitPressRelease_of_no_key x idle (State.leastKeyDown_eq_none.2 up)]
  · rw [State.keyWaitPressRelease_of_held x latched down]
  · rw [State.keyWaitPressRelease_of_released x latched up]
    refine ⟨_, rfl, rfl, ?_, rfl, s.advance_setV_setKwait_frame x _ _⟩
    rw [State.setKwait_getV, State.setV_getV_same, byte_ofNat_key_toNat]

end Sys2Proof.Machine
end

section
/-! PROOFS. Memory: what a canonical memory is determined by (log 5), and the transfers FX33, FX55, FX65 and the program
load (45_index_memory.md R153 to R155; 60_exceptions.md R193; 20_memory.md R58, R61, R64). A read after a write of a run of
bytes is `State.byteUnder`, which every claim about a transfer goes through. -/

namespace Sys2Proof.Machine

/-! ### A canonical memory is determined by its reads -/

section
variable {font : Font} {m : Memory} {a : Nat}

/-- Over rising addresses a listed byte is the one read. -/
theorem Memory.read_of_mem {c : Host.Cell} (rising : m.Pairwise fun c d => c.1 < d.1) (hc : c ∈ m) :
    Memory.read font m c.1 = c.2 := by
  induction m with
  | nil => cases hc
  | cons d m ih =>
    obtain ⟨below, rising⟩ := List.pairwise_cons.1 rising
    rw [Memory.read]
    obtain rfl | hc := List.mem_cons.1 hc
    · exact if_pos rfl
    · rw [if_neg (Nat.ne_of_lt (below c hc)), ih rising hc]

/-- A byte that reads otherwise than after reset is listed. -/
theorem Memory.mem_of_read_ne (changed : Memory.read font m a ≠ resetByte font a) :
    (a, Memory.read font m a) ∈ m := by
  induction m with
  | nil => exact absurd rfl changed
  | cons d m ih =>
    rw [Memory.read] at changed ⊢
    split at changed
    next here =>
      rw [if_pos here, ← here]
      exact List.mem_cons_self
    next elsewhere =>
      rw [if_neg elsewhere]
      exact List.mem_cons_of_mem _ (ih changed)

/-- The cells of a canonical memory are the addresses that read otherwise than after reset, with what they read. -/
theorem Memory.mem_iff_read {c : Host.Cell} (wf : Memory.wf font m = true) :
    c ∈ m ↔ c.2 = Memory.read font m c.1 ∧ c.2 ≠ resetByte font c.1 := by
  obtain ⟨rising, cells⟩ := Memory.wf_iff.1 wf
  constructor
  · intro hc
    exact ⟨(Memory.read_of_mem rising hc).symm, (cells c hc).2⟩
  · rintro ⟨reads, changed⟩
    rw [reads] at changed
    have listed := Memory.mem_of_read_ne changed
    rwa [← reads] at listed

end

/-- Settles O47: the two lists have the same cells, and addresses that rise leave one order for them. -/
theorem memoriesThatReadAlikeAreEqual : Obligations.MemoriesThatReadAlikeAreEqual := by
  intro font m m' wf wf' alike
  have irrefl : Std.Irrefl fun c d : Host.Cell => c.1 < d.1 := ⟨fun _ => Nat.lt_irrefl _⟩
  have antisymm : Std.Antisymm fun c d : Host.Cell => c.1 < d.1 := ⟨fun _ _ lt gt => absurd gt (Nat.lt_asymm lt)⟩
  refine (Memory.wf_iff.1 wf).1.eq_of_mem_iff (Memory.wf_iff.1 wf').1 fun c => ?_
  rw [Memory.mem_iff_read wf, Memory.mem_iff_read wf', alike]

/-! ### A run of bytes written -/

section
variable {s : State} {base : Nat} {bs : List Byte}

theorem State.byteUnder_of_written {k : Nat} (hk : k < bs.length) : s.byteUnder base bs (base + k) = bs[k] := by
  have offset : base + k - base = k := Nat.add_sub_cancel_left base k
  have written : base ≤ base + k ∧ base + k - base < bs.length := ⟨Nat.le_add_right base k, by rwa [offset]⟩
  rw [State.byteUnder, dif_pos written]
  simp only [offset]

theorem State.byteUnder_of_unwritten {a : Nat} (unwritten : ¬ (base ≤ a ∧ a < base + bs.length)) :
    s.byteUnder base bs a = s.readByte a :=
  dif_neg (by omega)

theorem State.writeBytes_readByte_eq_byteUnder (wf : Memory.wf s.params.font s.mem = true) (a : Nat) :
    (s.writeBytes base bs).readByte a = s.byteUnder base bs a :=
  State.writeBytes_readByte (Memory.wf_iff.1 wf).1 base a bs

/-- The bytes written are the one change. -/
theorem State.writeBytes_frame (wf : Memory.wf s.params.font s.mem = true) :
    Frame { mem := fun a => base ≤ a ∧ a < base + bs.length } s (s.writeBytes base bs) where
  v _ _ := rfl
  i _ := rfl
  sp _ := rfl
  stack _ _ _ := rfl
  mem a unwritten := by rw [State.writeBytes_readByte_eq_byteUnder wf, State.byteUnder_of_unwritten unwritten]
  fb _ _ _ := rfl
  dt _ := rfl
  st _ := rfl
  kwait _ := rfl
  random _ := ⟨rfl, rfl⟩
  key := rfl
  fault := rfl
  params := rfl

end

/-! ### The program load -/

/-- Settles O54: a program that fits is written from `ENTRY` on, another is refused. -/
theorem loadWritesTheProgram : Obligations.LoadWritesTheProgram := by
  intro s bytes wf
  refine ⟨fun fits => ⟨_, hostOp_load_of_fits s fits, rfl, fun k hk => ?_, State.writeBytes_frame wf⟩,
    hostOp_load_of_too_large s⟩
  rw [State.writeBytes_readByte_eq_byteUnder wf, State.byteUnder_of_written hk]

/-! ### An access that ends in memory, and one that does not (20_memory.md R52) -/

theorem lowestBad_of_inBounds {base n : Nat} (inBounds : base + n < 4096) : lowestBad base (n + 1) = none :=
  lowestBad_eq_none_iff.2 (.inr inBounds)

theorem lowestBad_of_outOfBounds {base n : Nat} (outOfBounds : 4096 ≤ base + n) :
    lowestBad base (n + 1) = some (max base 4096) :=
  lowestBad_eq_some_iff.2 ⟨rfl, max_lt (by omega) (by omega)⟩

/-! ### What each transfer is -/

section
variable {s : State} (x : Reg)

theorem exec_ldBVx_of_inBounds (inBounds : s.dataAddr + 2 < 4096) :
    exec (.ldBVx x) s = .next (s.advance.writeBytes s.dataAddr (bcdDigits (s.getV x))) := by
  simp only [exec, execLdBVx, lowestBad_of_inBounds inBounds]

theorem exec_ldBVx_of_outOfBounds (outOfBounds : 4096 ≤ s.dataAddr + 2) :
    exec (.ldBVx x) s = .next (s.faulted (.ldBVx x) .memoryOutOfBounds (some (max s.dataAddr 4096))) := by
  simp only [exec, execLdBVx, lowestBad_of_outOfBounds outOfBounds, raiseFault_eq, State.faulted]

theorem exec_ldMemVx_of_inBounds (inBounds : s.dataAddr + x.val < 4096) :
    exec (.ldMemVx x) s = .next ((s.advance.writeBytes s.dataAddr (s.regsUpTo x)).ldstIncrement x) := by
  simp only [exec, execLdMemVx, lowestBad_of_inBounds inBounds]

theorem exec_ldMemVx_of_outOfBounds (outOfBounds : 4096 ≤ s.dataAddr + x.val) :
    exec (.ldMemVx x) s = .next (s.faulted (.ldMemVx x) .memoryOutOfBounds (some (max s.dataAddr 4096))) := by
  simp only [exec, execLdMemVx, lowestBad_of_outOfBounds outOfBounds, raiseFault_eq, State.faulted]

theorem exec_ldVxMem_of_inBounds (inBounds : s.dataAddr + x.val < 4096) :
    exec (.ldVxMem x) s = .next ((s.advance.loadRegsUpTo x).ldstIncrement x) := by
  simp only [exec, execLdVxMem, lowestBad_of_inBounds inBounds]

theorem exec_ldVxMem_of_outOfBounds (outOfBounds : 4096 ≤ s.dataAddr + x.val) :
    exec (.ldVxMem x) s = .next (s.faulted (.ldVxMem x) .memoryOutOfBounds (some (max s.dataAddr 4096))) := by
  simp only [exec, execLdVxMem, lowestBad_of_outOfBounds outOfBounds, raiseFault_eq, State.faulted]

end

/-! ### FX33 and FX55 -/

section
variable {s : State} {base : Nat} {bs : List Byte}

/-- After the fetch's advance, the bytes written are the one change. -/
theorem State.advance_writeBytes_frame (wf : Memory.wf s.params.font s.mem = true) {written : Nat → Prop}
    (covered : ∀ a, base ≤ a ∧ a < base + bs.length → written a) :
    Frame { mem := written } s (s.advance.writeBytes base bs) :=
  have frame : Frame { mem := fun a => base ≤ a ∧ a < base + bs.length } s (s.writeBytes base bs) :=
    State.writeBytes_frame wf
  { frame with mem := fun a unwritten => frame.mem a (mt (covered a) unwritten) }

theorem State.advance_writeBytes_readByte (wf : Memory.wf s.params.font s.mem = true) (a : Nat) :
    (s.advance.writeBytes base bs).readByte a = s.byteUnder base bs a :=
  State.writeBytes_readByte_eq_byteUnder wf a

end

/-- Settles O42: the digits, bytes since each is below 256, lie under the three addresses written. -/
theorem bcdStoresThreeDigits : Obligations.BcdStoresThreeDigits := by
  intro x s wf
  refine ⟨fun inBounds => ⟨_, exec_ldBVx_of_inBounds x inBounds, rfl, ?_⟩, exec_ldBVx_of_outOfBounds x⟩
  have small := (s.getV x).isLt
  have digit {k : Nat} (hk : k < (bcdDigits (s.getV x)).length) :
      (s.advance.writeBytes s.dataAddr (bcdDigits (s.getV x))).readByte (s.dataAddr + k) = (bcdDigits (s.getV x))[k] := by
    rw [State.advance_writeBytes_readByte wf, State.byteUnder_of_written hk]
  refine ⟨?_, ?_, ?_, State.advance_writeBytes_frame wf fun a written => ?_⟩
  · exact (congrArg BitVec.toNat (digit (show 0 < 3 by decide))).trans (Nat.mod_eq_of_lt (by omega))
  · exact (congrArg BitVec.toNat (digit (show 1 < 3 by decide))).trans (Nat.mod_eq_of_lt (by omega))
  · exact (congrArg BitVec.toNat (digit (show 2 < 3 by decide))).trans (Nat.mod_eq_of_lt (by omega))
  · rw [bcdDigits_length] at written
    omega

/-! `if LDST_INCREMENTS_I`, the last part of FX55 and FX65 (the spec's decision D17). -/

section
variable {s : State} (x : Reg)

/-- Whether it moves `I` or not, it changes nothing else. -/
theorem State.ldstIncrement_frame :
    Frame { i := s.params.ldstIncrementsI = true } s (s.ldstIncrement x) where
  v _ _ := s.ldstIncrement_getV x _
  i off := by rw [State.ldstIncrement_i, if_neg off]
  sp _ := s.ldstIncrement_sp x
  stack _ _ _ := by simp only [State.ldstIncrement_stack]
  mem _ _ := s.ldstIncrement_readByte x _
  fb _ _ _ := by rw [State.ldstIncrement_fb]
  dt _ := s.ldstIncrement_dt x
  st _ := s.ldstIncrement_st x
  kwait _ := s.ldstIncrement_kwait x
  random _ := ⟨s.ldstIncrement_randomIn x, s.ldstIncrement_draws x⟩
  key := s.ldstIncrement_key x
  fault := s.ldstIncrement_fault x
  params := s.ldstIncrement_params x

theorem State.ldstIncrement_i_toNat (on : s.params.ldstIncrementsI = true) :
    (s.ldstIncrement x).i.toNat = (s.dataAddr + x.val + 1) % 65536 := by
  rw [State.ldstIncrement_i, if_pos on, BitVec.toNat_ofNat]

end

section
variable {s : State} {x : Reg}

theorem State.byteUnder_regsUpTo {q : Reg} (stored : q ≤ x) :
    s.byteUnder s.dataAddr (s.regsUpTo x) (s.dataAddr + q.val) = s.getV q := by
  have inList : q.val < (s.regsUpTo x).length := by
    rw [State.regsUpTo_length]
    exact Nat.lt_succ_of_le stored
  rw [State.byteUnder_of_written inList, State.regsUpTo_getElem]

/-- FX55 changes the bytes at `I`..`I + X` and, if LDST_INCREMENTS_I, `I`. -/
theorem State.store_frame (wf : Memory.wf s.params.font s.mem = true) :
    Frame { mem := fun a => s.dataAddr ≤ a ∧ a ≤ s.dataAddr + x.val, i := s.params.ldstIncrementsI = true } s
      ((s.advance.writeBytes s.dataAddr (s.regsUpTo x)).ldstIncrement x) := by
  have writes : Frame { mem := fun a => s.dataAddr ≤ a ∧ a ≤ s.dataAddr + x.val } s
      (s.advance.writeBytes s.dataAddr (s.regsUpTo x)) :=
    State.advance_writeBytes_frame wf fun a written => by
      rw [State.regsUpTo_length] at written
      omega
  have moves := (s.advance.writeBytes s.dataAddr (s.regsUpTo x)).ldstIncrement_frame x
  exact Frame.trans { writes with i := fun _ => writes.i id } { moves with mem := fun a _ => moves.mem a id }

/-- Settles O43: the registers lie under the addresses written. -/
theorem storeRegistersAtI : Obligations.StoreRegistersAtI := by
  intro x s wf
  refine ⟨fun inBounds => ⟨_, exec_ldMemVx_of_inBounds x inBounds, ?_, fun q stored => ?_, fun on => ?_,
    State.store_frame wf⟩, exec_ldMemVx_of_outOfBounds x⟩
  · exact State.ldstIncrement_pc _ x
  · rw [State.ldstIncrement_readByte, State.advance_writeBytes_readByte wf, State.byteUnder_regsUpTo stored]
  · exact State.ldstIncrement_i_toNat x on

end

/-! ### FX65 -/

section
variable {s : State} {x : Reg}

/-- A state that differs in `pc` and in some registers. -/
theorem State.registers_frame {v : Vector Byte 16} {pc : Word} {written : Reg → Prop}
    (kept : ∀ q : Reg, ¬ written q → v[q] = s.getV q) :
    Frame { v := written } s { s with v := v, pc := pc } where
  v := kept
  i _ := rfl
  sp _ := rfl
  stack _ _ _ := rfl
  mem _ _ := rfl
  fb _ _ _ := rfl
  dt _ := rfl
  st _ := rfl
  kwait _ := rfl
  random _ := ⟨rfl, rfl⟩
  key := rfl
  fault := rfl
  params := rfl

/-- After the fetch's advance, the registers loaded are the one change. -/
theorem State.advance_loadRegsUpTo_frame : Frame { v := fun q => q ≤ x } s (s.advance.loadRegsUpTo x) :=
  State.registers_frame fun q notLoaded => by
    show (s.advance.loadRegsUpTo x).getV q = s.getV q
    rw [State.loadRegsUpTo_getV, if_neg notLoaded, State.advance_getV]

/-- FX65 changes `V[0]`..`V[X]` and, if LDST_INCREMENTS_I, `I`. -/
theorem State.load_frame :
    Frame { v := fun q => q ≤ x, i := s.params.ldstIncrementsI = true } s
      ((s.advance.loadRegsUpTo x).ldstIncrement x) :=
  have loads := s.advance_loadRegsUpTo_frame (x := x)
  have moves := (s.advance.loadRegsUpTo x).ldstIncrement_frame x
  Frame.trans { loads with i := fun _ => loads.i id } { moves with v := fun q _ => moves.v q id }

/-- Settles O44: a register up to `V[X]` is the byte at its place, and the rest is kept. -/
theorem loadRegistersFromI : Obligations.LoadRegistersFromI := by
  intro x s
  refine ⟨fun inBounds => ⟨_, exec_ldVxMem_of_inBounds x inBounds, ?_, fun q loaded => ?_, fun on => ?_,
    State.load_frame⟩, exec_ldVxMem_of_outOfBounds x⟩
  · exact State.ldstIncrement_pc _ x
  · rw [State.ldstIncrement_getV, State.loadRegsUpTo_getV, if_pos loaded, State.advance_readByte, State.advance_dataAddr]
  · exact State.ldstIncrement_i_toNat x on

end

/-- Settles O45: the load reads the bytes the store wrote, since neither the registers nor `I` are memory. -/
theorem storedRegistersLoadBack : Obligations.StoredRegistersLoadBack := by
  intro x s v wf inBounds
  obtain ⟨t, stores, -, stored, -, -⟩ := (storeRegistersAtI x s wf).1 inBounds
  obtain ⟨u, loads, -, loaded, -, -⟩ := (loadRegistersFromI x { t with v := v, i := s.i }).1 inBounds
  exact ⟨t, u, stores, loads, fun q hq => (loaded q hq).trans (stored q hq)⟩

/-! ### What is written is fetched next (20_memory.md R64) -/

section
variable {s t : State}

/-- Where a step can fetch, it steps on the two bytes at `pc`. -/
theorem State.stepsOn_bytes_at_pc (noFault : t.fault = none) (inMemory : t.pc.toNat + 1 < 4096) :
    t.StepsOn (t.readByte t.pc.toNat ++ t.readByte (t.pc.toNat + 1)) :=
  ⟨fun _ decoded => step_eq_exec noFault inMemory decoded, step_eq_latch_unknownOpcode noFault inMemory⟩

/-- The registers FX55 stores, as the list of them in order. -/
theorem State.regsUpTo_eq_ofFn (x : Reg) :
    s.regsUpTo x = List.ofFn fun k : Fin (x.val + 1) => s.getV ⟨k.val, by omega⟩ := by
  refine List.ext_getElem (by rw [State.regsUpTo_length, List.length_ofFn]) fun k _ _ => ?_
  rw [State.regsUpTo_getElem, List.getElem_ofFn]

end

/-- Settles O46: each write's bytes are what memory reads at the next `pc`, which a step fetches. -/
theorem storedBytesAreFetchedNext : Obligations.StoredBytesAreFetchedNext := by
  intro s wf noFault
  refine ⟨fun x inBounds inMemory => ⟨_, exec_ldBVx_of_inBounds x inBounds, ?_⟩,
    fun x inBounds inMemory => ⟨_, exec_ldMemVx_of_inBounds x inBounds, ?_⟩,
    fun bytes fits inMemory => ⟨_, hostOp_load_of_fits s fits, ?_⟩⟩
  · have steps := State.stepsOn_bytes_at_pc (t := s.advance.writeBytes s.dataAddr (bcdDigits (s.getV x))) noFault inMemory
    rwa [State.advance_writeBytes_readByte wf, State.advance_writeBytes_readByte wf] at steps
  · have steps := State.stepsOn_bytes_at_pc (t := (s.advance.writeBytes s.dataAddr (s.regsUpTo x)).ldstIncrement x)
      ((State.ldstIncrement_fault _ x).trans noFault) (by rwa [State.ldstIncrement_pc])
    rw [State.ldstIncrement_pc, State.ldstIncrement_readByte, State.ldstIncrement_readByte,
      State.advance_writeBytes_readByte wf, State.advance_writeBytes_readByte wf] at steps
    rwa [← State.regsUpTo_eq_ofFn]
  · have steps := State.stepsOn_bytes_at_pc (t := s.writeBytes Config.entry bytes) noFault inMemory
    rwa [State.writeBytes_readByte_eq_byteUnder wf, State.writeBytes_readByte_eq_byteUnder wf] at steps

end Sys2Proof.Machine
end

section
/-! PROOFS. Faults (60_exceptions.md R170 to R175): which a step takes, what it leaves, and that a latched one stays. -/

namespace Sys2Proof.Machine

variable {s t : State} {i : Instr}

/-! ### Taking a fault -/

/-- The second case of 60_exceptions.md R173's priority: no latched fault and a fetch that is not in memory. -/
theorem step_eq_latch_fetchFault (noFault : s.fault = none) (pastMemory : 0xFFF ≤ s.pc.toNat) :
    step s = .next (s.latch .memoryOutOfBounds none (some (max s.pc.toNat 4096))) := by
  obtain ⟨latched, -⟩ | ⟨-, -, latches⟩ | ⟨-, inMemory, -⟩ | ⟨-, inMemory, -⟩ := step_cases s
  · exact absurd noFault latched
  · exact latches
  · omega
  · omega

/-- Settles O8: the lowest bad address is `pc` itself, or the one after it when `pc` is the last byte. -/
theorem fetchPastMemoryFaults : Obligations.FetchPastMemoryFaults := by
  intro s noFault pastMemory
  have lowest : (if 4096 ≤ s.pc.toNat then s.pc.toNat else s.pc.toNat + 1) = max s.pc.toNat 4096 := by
    split <;> omega
  rw [step_eq_latch_fetchFault noFault pastMemory, lowest]
  rfl

/-- Settles O12: an instruction that faults latches its own kind, one that does not leaves the latch. -/
theorem instructionRaisesOnlyItsOwnFault : Obligations.InstructionRaisesOnlyItsOwnFault := by
  intro i s t runs
  obtain ⟨kind, detail, ownKind, rfl, -⟩ | quiet := exec_cases runs
  · exact .inr ⟨_, rfl, ownKind⟩
  · exact .inl quiet.fault

/-- Latching changes nothing but the latch (60_exceptions.md R174). -/
theorem State.latch_eq (kind : FaultKind) (word : Option Word) (detail : Option Nat) :
    s.latch kind word detail = { s with fault := some ⟨kind, s.pc, word, detail⟩ } := rfl

/-- Settles O11, by the cases of a step: the word an instruction's fault records is its encoding, so the one fetched. -/
theorem faultingStepIsPreciseAndAtomic : Obligations.FaultingStepIsPreciseAndAtomic := by
  intro s t noFault steps faulted
  obtain ⟨latched, -⟩ | ⟨-, pastMemory, e⟩ | ⟨-, -, -, e⟩ | ⟨-, -, i, decoded, e⟩ := step_cases s
  · exact absurd noFault latched
  · obtain rfl := next_inj (e.symm.trans steps)
    exact ⟨_, State.latch_eq _ _ _, rfl, fetchFault_wf pastMemory, .inr ⟨rfl, pastMemory⟩⟩
  · obtain rfl := next_inj (e.symm.trans steps)
    exact ⟨_, State.latch_eq _ _ _, rfl, rfl, .inl rfl⟩
  · obtain ⟨kind, detail, -, rfl, shape⟩ | quiet := exec_cases (e.symm.trans steps)
    · exact ⟨_, State.latch_eq _ _ _, rfl, shape, .inl (congrArg some (encode_of_decode decoded).1)⟩
    · exact absurd (quiet.fault.trans noFault) faulted

/-! ### The host's operations, told apart by what they can reach -/

/-- The timers, the keypad and the rest that neither the invariant nor a fetch reads are all that differs. -/
structure State.SameCore (s t : State) : Prop where
  pc : t.pc = s.pc
  sp : t.sp = s.sp
  mem : t.mem = s.mem
  fault : t.fault = s.fault
  kwait : t.kwait = s.kwait
  params : t.params = s.params

/-- What an operation of the host is (60_exceptions.md R190): a reset, a step, a load, or one that reaches the timers or the
keypad at most. -/
theorem hostOp_cases (o : HostOp) (s : State) :
    (o = .reset ∨ o = .construct) ∨ (∃ r, o = .step r) ∨
    (∃ bytes, o = .load bytes ∧ bytes.length ≤ 3584) ∨
    ∃ t reply, hostOp o s = .next (t, reply) ∧ s.SameCore t := by
  cases o with
  | construct => exact .inl (.inr rfl)
  | reset => exact .inl (.inl rfl)
  | step r => exact .inr (.inl ⟨r, rfl⟩)
  | load bytes =>
    by_cases fits : bytes.length ≤ 3584
    · exact .inr (.inr (.inl ⟨bytes, rfl, fits⟩))
    · exact .inr (.inr (.inr ⟨_, _, hostOp_load_of_too_large s (Nat.lt_of_not_le fits), rfl, rfl, rfl, rfl, rfl, rfl⟩))
  | tickTimers => exact .inr (.inr (.inr ⟨_, _, hostOp_tickTimers s, rfl, rfl, rfl, rfl, rfl, rfl⟩))
  | readFramebuffer => exact .inr (.inr (.inr ⟨_, _, rfl, rfl, rfl, rfl, rfl, rfl, rfl⟩))
  | setKey k down =>
    by_cases isKey : k < 16
    · exact .inr (.inr (.inr ⟨_, _, hostOp_setKey_of_lt s isKey down, rfl, rfl, rfl, rfl, rfl, rfl⟩))
    · exact .inr (.inr (.inr ⟨_, _, hostOp_setKey_of_ge s (Nat.le_of_not_lt isKey) down, rfl, rfl, rfl, rfl, rfl, rfl⟩))

/-- Settles O55: one flag of the keypad set, or a refusal. -/
theorem setKeySetsOneFlag : Obligations.SetKeySetsOneFlag := fun s _ down =>
  ⟨fun isKey => ⟨_, hostOp_setKey_of_lt s isKey down, Vector.getElem_set_self isKey,
      fun _ _ other => Vector.getElem_set_ne isKey _ other.symm, rfl⟩,
    fun noKey => hostOp_setKey_of_ge s noKey down⟩

/-! ### A latched fault stays -/

/-- The first case of 60_exceptions.md R173's priority: a latched fault (R175). -/
theorem step_of_latched (latched : s.fault ≠ none) : step s = .next s := by
  obtain ⟨-, stays⟩ | ⟨noFault, -⟩ | ⟨noFault, -⟩ | ⟨noFault, -⟩ := step_cases s
  · exact stays
  · exact absurd noFault latched
  · exact absurd noFault latched
  · exact absurd noFault latched

/-- A run goes on from where its first step ends. -/
theorem run_succ_of_step (steps : step s = .next t) (k : Nat) :
    Host.Core.run core (k + 1) s = Host.Core.run core k t := by
  have coreSteps : core.step s = .next t := steps
  simp only [Host.Core.run, coreSteps]

/-- A run from a state that steps to itself goes nowhere. -/
theorem run_of_step_self (stays : step s = .next s) (k : Nat) : Host.Core.run core k s = .next s := by
  induction k with
  | zero => rfl
  | succ k ih => rw [run_succ_of_step stays, ih]

/-- A step that leaves a fault reports its record (60_exceptions.md R175). -/
theorem State.stepReply_of_latched {f : FaultRecord} (latched : s.fault = some f) : s.stepReply = .faulted f := by
  rw [State.stepReply, latched]

/-- Settles O10: a step of a faulted machine is the state itself, and the other operations do not reach the latch. -/
theorem latchedFaultIsSticky : Obligations.LatchedFaultIsSticky := by
  intro s f latched
  have isLatched : s.fault ≠ none := latched ▸ Option.some_ne_none f
  have hostStep (r : Byte) : hostOp (.step r) s = .next ({ s with randomIn := [] }, .faulted f) := by
    rw [hostOp_step_of_step s (step_of_latched (s := s.supplyRandom r) isLatched),
      State.stepReply_of_latched (s := s.supplyRandom r) latched]
    rfl
  refine ⟨run_of_step_self (step_of_latched isLatched), hostStep, fun o notConstruct notReset => ?_⟩
  obtain (rfl | rfl) | ⟨r, rfl⟩ | ⟨bytes, rfl, fits⟩ | ⟨t, reply, answers, same⟩ := hostOp_cases o s
  · exact absurd rfl notReset
  · exact absurd rfl notConstruct
  · exact ⟨_, _, hostStep r, latched⟩
  · exact ⟨_, _, hostOp_load_of_fits s fits, latched⟩
  · exact ⟨t, reply, answers, same.fault.trans latched⟩

end Sys2Proof.Machine
end

section
/-! PROOFS. The host's operations and the invariant (60_exceptions.md R190, R191): from every state that meets it each
operation answers and keeps it. The one that could stop the model is a step, at CALL or RET with `SP` above 16 (log 4). -/

namespace Sys2Proof.Machine

variable {s t : State}

/-! ### A step answers a next state -/

/-- With `SP` in range every instruction answers a next state: its result, or the state with its fault latched. -/
theorem exec_answers (i : Instr) (inRange : s.sp.toNat ≤ 16) : ∃ t, exec i s = .next t := by
  cases i with
  | call nnn =>
    obtain free | full := Nat.lt_or_eq_of_le inRange
    · exact ⟨_, exec_call_of_lt nnn free⟩
    · exact ⟨_, exec_call_of_eq nnn full⟩
  | ret =>
    obtain empty | pushed := Nat.eq_zero_or_pos s.sp.toNat
    · exact ⟨_, exec_ret_of_empty empty⟩
    · obtain ⟨_, runs⟩ := exec_ret_of_pushed pushed inRange
      exact ⟨_, runs⟩
  | skp x =>
    obtain isKey | noKey := Nat.lt_or_ge (s.getV x).toNat 16
    · exact ⟨_, exec_skp_of_lt isKey⟩
    · exact ⟨_, exec_skp_of_ge noKey⟩
  | sknp x =>
    obtain isKey | noKey := Nat.lt_or_ge (s.getV x).toNat 16
    · exact ⟨_, exec_sknp_of_lt isKey⟩
    · exact ⟨_, exec_sknp_of_ge noKey⟩
  | ldFVx x =>
    obtain noDigit | isDigit := Nat.lt_or_ge 15 (s.getV x).toNat
    · exact ⟨_, exec_ldFVx_of_gt noDigit⟩
    · exact ⟨_, exec_ldFVx_of_le isDigit⟩
  | ldVxK x =>
    cases waits : s.params.keywait with
    | press => exact ⟨_, exec_ldVxK_of_press x waits⟩
    | pressRelease => exact ⟨_, exec_ldVxK_of_pressRelease x waits⟩
  | drw x y n =>
    by_cases inBounds : n.toNat = 0 ∨ s.i.toNat + n.toNat ≤ 4096
    · exact ⟨_, exec_drw_of_inBounds x y inBounds⟩
    · obtain ⟨rows, outOfBounds⟩ := not_or.1 inBounds
      exact ⟨_, exec_drw_of_outOfBounds x y rows (Nat.lt_of_not_le outOfBounds)⟩
  | ldBVx x =>
    obtain inBounds | outOfBounds := Nat.lt_or_ge (s.dataAddr + 2) 4096
    · exact ⟨_, exec_ldBVx_of_inBounds x inBounds⟩
    · exact ⟨_, exec_ldBVx_of_outOfBounds x outOfBounds⟩
  | ldMemVx x =>
    obtain inBounds | outOfBounds := Nat.lt_or_ge (s.dataAddr + x.val) 4096
    · exact ⟨_, exec_ldMemVx_of_inBounds x inBounds⟩
    · exact ⟨_, exec_ldMemVx_of_outOfBounds x outOfBounds⟩
  | ldVxMem x =>
    obtain inBounds | outOfBounds := Nat.lt_or_ge (s.dataAddr + x.val) 4096
    · exact ⟨_, exec_ldVxMem_of_inBounds x inBounds⟩
    · exact ⟨_, exec_ldVxMem_of_outOfBounds x outOfBounds⟩
  | cls | nop | jp | jpV0 | seImm | sneImm | seReg | sneReg | ldImm | addImm | ldReg | or | and | xor | addReg | sub
  | shr | subn | shl | ldI | rnd | ldVxDt | ldDtVx | ldStVx | addIVx => exact ⟨_, rfl⟩

theorem step_answers (h : s.Inv) : ∃ t, step s = .next t := by
  obtain ⟨-, e⟩ | ⟨-, -, e⟩ | ⟨-, -, -, e⟩ | ⟨-, -, i, -, e⟩ := step_cases s
  · exact ⟨_, e⟩
  · exact ⟨_, e⟩
  · exact ⟨_, e⟩
  · rw [e]
    exact exec_answers i h.stackPointer

/-- Settles O16: the invariant keeps `SP` in 0..16, where every instruction answers. -/
theorem stepAlwaysAnswersANextState : Obligations.StepAlwaysAnswersANextState := fun _ => step_answers

/-! ### The parameters -/

theorem Faulted.params {i : Instr} (faults : Faulted i s t) : t.params = s.params := by
  obtain ⟨_, _, -, rfl, -⟩ := faults
  rfl

theorem exec_keeps_params {i : Instr} (runs : exec i s = .next t) : t.params = s.params :=
  (exec_cases runs).elim Faulted.params Quiet.params

theorem step_keeps_params (steps : step s = .next t) : t.params = s.params := by
  obtain ⟨-, e⟩ | ⟨-, -, e⟩ | ⟨-, -, -, e⟩ | ⟨-, -, i, -, e⟩ := step_cases s
  · rw [next_inj (e.symm.trans steps)]
  · rw [next_inj (e.symm.trans steps), State.latch_params]
  · rw [next_inj (e.symm.trans steps), State.latch_params]
  · exact exec_keeps_params (e.symm.trans steps)

/-! ### The operations -/

/-- The invariant reads nothing but what `SameCore` keeps. -/
theorem State.SameCore.keeps_inv (same : s.SameCore t) (h : s.Inv) : t.Inv where
  memory := by
    rw [same.params, same.mem]
    exact h.memory
  stackPointer := by
    rw [same.sp]
    exact h.stackPointer
  keyWait press := by
    rw [same.params] at press
    rw [same.kwait, h.keyWait press]
  record f latched := by
    rw [same.fault] at latched
    rw [same.pc]
    exact h.record f latched

theorem State.supplyRandom_sameCore (s : State) (r : Byte) : s.SameCore (s.supplyRandom r) :=
  ⟨rfl, rfl, rfl, rfl, rfl, rfl⟩

theorem State.dropSupply_sameCore (s : State) : s.SameCore s.dropSupply :=
  ⟨rfl, rfl, rfl, rfl, rfl, rfl⟩

/-- Reset in place is a constructed machine with the byte source left where it was (log 2). -/
theorem State.construct_sameCore_resetInPlace (s : State) :
    (State.construct s.params s.draws).SameCore s.resetInPlace :=
  ⟨rfl, rfl, rfl, rfl, rfl, rfl⟩

theorem State.writeBytes_keeps_inv {base : Nat} {bs : List Byte} (h : s.Inv) (inBounds : base + bs.length ≤ 4096) :
    (s.writeBytes base bs).Inv :=
  { h with memory := Memory.wf_writeBytes h.memory inBounds }

/-- Every operation of the host answers and keeps the invariant and the parameters. -/
theorem hostOp_answers (o : HostOp) (h : s.Inv) :
    ∃ t reply, hostOp o s = .next (t, reply) ∧ t.Inv ∧ t.params = s.params := by
  obtain isReset | ⟨r, rfl⟩ | ⟨bytes, rfl, fits⟩ | ⟨t, reply, answers, same⟩ := hostOp_cases o s
  · exact ⟨_, _, hostOp_reset_or_construct isReset s,
      s.construct_sameCore_resetInPlace.keeps_inv (State.construct_inv _ _), rfl⟩
  · have supplied := (s.supplyRandom_sameCore r).keeps_inv h
    obtain ⟨t, steps⟩ := step_answers supplied
    have params := step_keeps_params steps
    exact ⟨_, _, hostOp_step_of_step s steps, t.dropSupply_sameCore.keeps_inv (step_keeps_inv supplied steps), params⟩
  · exact ⟨_, _, hostOp_load_of_fits s fits, s.writeBytes_keeps_inv h (Nat.add_le_add_left fits 512), rfl⟩
  · exact ⟨t, reply, answers, same.keeps_inv h, same.params⟩

/-- Settles O17: the operations one by one, and then by induction on how a state is reached. -/
theorem everyHostScheduleKeepsTheInvariant : Obligations.EveryHostScheduleKeepsTheInvariant := by
  refine ⟨fun o s h => hostOp_answers o h, fun p s reached => ?_⟩
  induction reached with
  | construct n => exact ⟨State.construct_inv p n, rfl⟩
  | op o _ does ih =>
    obtain ⟨h, params⟩ := ih
    obtain ⟨_, _, answers, keeps, sameParams⟩ := hostOp_answers o h
    injection answers.symm.trans does with same
    injection same with sameState
    rw [← sameState]
    exact ⟨keeps, sameParams.trans params⟩

end Sys2Proof.Machine
end

section
/-! PROOFS. What the dispatch table leaves out, and that its rows are apart (30_encoding.md R74, R77). -/

namespace Sys2Proof

variable {o : Opset} {w : Word}

/-- The instructions of the source's own table (rows 1 to 25 of R75) are in both opcode sets. -/
theorem wellFormed_of_shared {i : Instr} (shared : i.canonicalOnly = false) : i.wellFormed o = true := by
  rw [Instr.wellFormed, shared, Bool.not_false, Bool.or_true]

/-! ### No word selects two rows -/

/-- A later row is apart from an earlier one, so a word does not select both. -/
theorem not_lt_of_both_select {j k : Nat} {r q : Row} (hj : dispatchTable[j]? = some r)
    (hk : dispatchTable[k]? = some q) (hr : r.selects o w = true) (hq : q.selects o w = true) : ¬ j < k := by
  intro earlier
  obtain ⟨jth, rfl⟩ := List.getElem?_eq_some_iff.1 hj
  obtain ⟨kth, rfl⟩ := List.getElem?_eq_some_iff.1 hk
  have apart := List.pairwise_iff_getElem.1 dispatchTable_apart j k jth kth earlier
  rw [Row.not_both apart hr] at hq
  cases hq

/-- Settles O6: neither row stands before the other. -/
theorem noWordSelectsTwoRows : Obligations.NoWordSelectsTwoRows := fun _ _ _ _ _ _ hj hk hr hq =>
  Nat.le_antisymm (Nat.le_of_not_lt (not_lt_of_both_select hk hj hq hr))
    (Nat.le_of_not_lt (not_lt_of_both_select hj hk hr hq))

/-! ### The fixed bits of a word as a number -/

section
variable (w : Word)

theorem and_FFFF_toNat : (w &&& 0xFFFF#16).toNat = w.toNat := congrArg BitVec.toNat BitVec.and_allOnes

theorem and_F000_toNat : (w &&& 0xF000#16).toNat = w.toNat / 4096 * 4096 := by
  obtain ⟨a, nnn, rfl⟩ := eq_formNNN w
  have := nnn.isLt
  rw [formNNN_and_F000, formNNN_toNat, formNNN_toNat, show (0 : Addr12).toNat = 0 from rfl]
  omega

theorem and_F00F_toNat : (w &&& 0xF00F#16).toNat = w.toNat / 4096 * 4096 + w.toNat % 16 := by
  obtain ⟨a, x, y, n, rfl⟩ := eq_formXYN w
  have := n.isLt
  rw [formXYN_and_F00F, formXYN_toNat, formXYN_toNat, Fin.val_zero]
  omega

theorem and_F0FF_toNat : (w &&& 0xF0FF#16).toNat = w.toNat / 4096 * 4096 + w.toNat % 256 := by
  obtain ⟨a, x, nn, rfl⟩ := eq_formXNN w
  have := nn.isLt
  rw [formXNN_and_F0FF, formXNN_toNat, formXNN_toNat, Fin.val_zero]
  omega

end

/-! ### The unknown opcodes -/

/-- A word is unknown when it lacks the fixed bits of every row of the opcode set (R76, R77). -/
theorem decode_eq_none_iff : decode o w = none ↔ dispatchTable.Forall fun r =>
    o = .canonical ∨ r.canonicalOnly = false → (w &&& r.mask).toNat ≠ r.pattern.toNat := by
  rw [decode, Option.map_eq_none_iff, List.find?_eq_none, List.forall_iff_forall_mem]
  refine forall₂_congr fun r _ => ?_
  rw [Row.selects_iff, not_and, ← BitVec.toNat_inj, Bool.or_eq_true, decide_eq_true_iff, Bool.not_eq_true']

/-- Settles O5: with the fixed bits of the rows as numbers, what is left is a claim about each opcode nibble, where `simp`
drops the rows of the others and `omega` compares the rest. -/
theorem unknownOpcodesAreExactlyThese : Obligations.UnknownOpcodesAreExactlyThese := by
  intro w
  have inRange := w.isLt
  simp only [decode_eq_none_iff, dispatchTable, rows1to10, rows11to20, rows21to25, rows26to35, List.cons_append,
    List.nil_append, List.Forall, and_FFFF_toNat, and_F000_toNat, and_F00F_toNat, and_F0FF_toNat,
    BitVec.reduceToNat, List.mem_cons, List.not_mem_nil, or_true, true_or, or_false, reduceCtorEq, false_imp_iff,
    true_imp_iff]
  generalize w.toNat = k at inRange
  generalize nibble : k / 4096 = a
  have : a < 16 := by omega
  interval_cases a
  all_goals simp only [Nat.reduceMul, Nat.reduceEqDiff, Nat.add_eq_left, Nat.succ_ne_self, OfNat.ofNat_ne_zero,
    OfNat.one_ne_ofNat, OfNat.zero_ne_ofNat, zero_mul, zero_add, one_mul, one_ne_zero, ne_eq, not_or, not_true_eq_false,
    not_false_eq_true, true_and, and_true, false_and, and_false, and_self, false_or, or_false, or_true, or_self, iff_true]
  all_goals omega

end Sys2Proof
end

section
/-! PROOFS. Whole runs: one that has finished (60_exceptions.md R199; 70_reset_and_hazards.md R210), and one with nothing
loaded (R203). -/

namespace Sys2Proof.Machine

variable {s t : State}

/-! ### A finished run -/

/-- The word that jumps to its own address is 1NNN of that address (60_exceptions.md R199). -/
theorem encode_jp_self {pc : Word} (inMemory : pc.toNat < 4096) :
    encode (.jp (pc.setWidth 12)) = 0x1000#16 ||| pc := by
  apply BitVec.eq_of_toNat_eq
  have fields : (encode (.jp (pc.setWidth 12))).toNat = 2 ^ 12 * 1 + pc.toNat := by
    rw [encode, formNNN_toNat, BitVec.toNat_setWidth, Nat.mod_eq_of_lt inMemory]
    rfl
  rw [fields, Nat.two_pow_add_eq_or_of_lt inMemory, BitVec.toNat_or]
  rfl

theorem zextNNN_setWidth {pc : Word} (inMemory : pc.toNat < 4096) : zextNNN (pc.setWidth 12) = pc := by
  apply BitVec.eq_of_toNat_eq
  rw [zextNNN_toNat, BitVec.toNat_setWidth, Nat.mod_eq_of_lt inMemory]

/-- A finished run jumps to where it is. -/
theorem State.finished.step_self (h : s.finished) : step s = .next s := by
  obtain ⟨noFault, inMemory, self⟩ := h
  have decoded : decode s.params.opset s.fetchWord = some (.jp (s.pc.setWidth 12)) := by
    rw [self, ← encode_jp_self (by omega)]
    exact decode_encode (wellFormed_of_shared rfl)
  rw [step_eq_exec noFault (by omega) decoded, exec_jp, zextNNN_setWidth (by omega)]
  rfl

/-- Whether a run has finished reads the latch, `pc` and memory. -/
theorem State.SameCore.finished (same : s.SameCore t) (h : s.finished) : t.finished := by
  obtain ⟨noFault, inMemory, self⟩ := h
  have fetch : t.fetchWord = s.fetchWord := by
    simp only [State.fetchWord, State.readByte, same.pc, same.mem, same.params]
  refine ⟨same.fault.trans noFault, ?_, ?_⟩
  · rwa [same.pc]
  · rw [fetch, self, same.pc]

/-- Settles O57: a step is a jump to itself, and the operations left do not reach what makes it one. -/
theorem finishedRunStaysFinished : Obligations.FinishedRunStaysFinished := by
  intro s h
  refine ⟨run_of_step_self h.step_self, fun o notConstruct notReset notLoad => ?_⟩
  obtain (rfl | rfl) | ⟨r, rfl⟩ | ⟨bytes, rfl, -⟩ | ⟨t, reply, answers, same⟩ := hostOp_cases o s
  · exact absurd rfl notReset
  · exact absurd rfl notConstruct
  · have supplied := (s.supplyRandom_sameCore r).finished h
    exact ⟨_, _, hostOp_step_of_step s supplied.step_self,
      (s.supplyRandom r).dropSupply_sameCore.finished supplied, rfl⟩
  · exact absurd rfl (notLoad bytes)
  · exact ⟨t, reply, answers, same.finished h, same.pc⟩

/-! ### A run with nothing loaded -/

/-- The first step of a run that answers, and the rest of it. -/
theorem exists_step_of_run_succ {k : Nat} (runs : Host.Core.run core (k + 1) s = .next t) :
    ∃ u, step s = .next u ∧ Host.Core.run core k u = .next t := by
  cases first : step s with
  | next u => exact ⟨u, rfl, by rw [← run_succ_of_step first, runs]⟩
  | fault f =>
    have coreFirst : core.step s = .fault f := first
    simp only [Host.Core.run, coreFirst, reduceCtorEq] at runs
  | refused f =>
    have coreFirst : core.step s = .refused f := first
    simp only [Host.Core.run, coreFirst, reduceCtorEq] at runs

/-- A run and one step more. -/
theorem run_succ_of_run {u : State} {k : Nat} (runs : Host.Core.run core k s = .next t) (steps : step t = .next u) :
    Host.Core.run core (k + 1) s = .next u := by
  induction k generalizing s with
  | zero =>
    obtain rfl : t = s := next_inj runs
    exact run_succ_of_step steps 0
  | succ k ih =>
    obtain ⟨v, first, rest⟩ := exists_step_of_run_succ runs
    rw [run_succ_of_step first, ih rest]

/-- Past the font a constructed machine holds zeros, which are the no-op (70_reset_and_hazards.md R203). -/
theorem step_construct_setPc (p : Params) (n : Nat) {w : Word} (pastFont : 80 ≤ w.toNat) (inMemory : w.toNat + 1 < 4096) :
    step ((State.construct p n).setPc w) = .next ((State.construct p n).setPc (w + 2)) := by
  have zero {a : Nat} (ha : 80 ≤ a) : ((State.construct p n).setPc w).readByte a = 0 := resetByte_of_le p.font ha
  have fetch : ((State.construct p n).setPc w).fetchWord = encode .nop := by
    rw [State.fetchWord, State.setPc_pc, zero pastFont, zero (Nat.le_succ_of_le pastFont)]
    rfl
  have decoded : decode p.opset ((State.construct p n).setPc w).fetchWord = some .nop := by
    rw [fetch]
    exact decode_encode (wellFormed_of_shared rfl)
  rw [step_eq_exec rfl inMemory decoded, exec_nop]
  rfl

/-- `k` steps run `k` no-ops while they stay in memory. -/
theorem run_construct (p : Params) (n : Nat) {k : Nat} (hk : k ≤ 1792) :
    Host.Core.run core k (State.construct p n)
      = .next ((State.construct p n).setPc (BitVec.ofNat 16 (0x200 + 2 * k))) := by
  induction k with
  | zero => rfl
  | succ k ih =>
    have address : (BitVec.ofNat 16 (0x200 + 2 * k)).toNat = 0x200 + 2 * k := Nat.mod_eq_of_lt (by omega)
    have next : BitVec.ofNat 16 (0x200 + 2 * (k + 1)) = BitVec.ofNat 16 (0x200 + 2 * k) + 2 := by
      apply BitVec.eq_of_toNat_eq
      rw [BitVec.toNat_add, address, BitVec.toNat_ofNat]
      rfl
    rw [next]
    exact run_succ_of_run (ih (by omega)) (step_construct_setPc p n (by omega) (by omega))

/-- Settles O58: 1792 no-ops, and a fetch at 0x1000. -/
theorem emptyMemoryRunsIntoAFetchFault : Obligations.EmptyMemoryRunsIntoAFetchFault := fun p n =>
  ⟨fun _ => run_construct p n,
    run_succ_of_run (run_construct p n le_rfl)
      (step_eq_latch_fetchFault (s := (State.construct p n).setPc 0x1000) rfl (show 0xFFF ≤ 0x1000 by decide))⟩

end Sys2Proof.Machine
end

section
/-! PROOFS. Two uses of a whole operation: a sprite drawn twice (95_test_vectors.md TV3), and the word the model places where
the machine fetches (log 6). -/

namespace Sys2Proof.Machine

/-! ### Drawing twice -/

section
variable {s : State} {x y : Reg} {n : Nibble}

/-- A draw leaves memory, `I` and the coordinates, unless one is in `VF`, so the sprite stays where it is. -/
theorem State.draw_spriteCovers (hx : x ≠ VF) (hy : y ≠ VF) (px : Fin 64) (py : Fin 32) :
    (s.draw x y n).spriteCovers ((s.draw x y n).getV x).toNat ((s.draw x y n).getV y).toNat n px py ↔
      s.spriteCovers (s.getV x).toNat (s.getV y).toNat n px py := by
  have coordinate {r : Reg} (hr : r ≠ VF) : (s.draw x y n).getV r = s.getV r := by
    rw [State.draw, State.setFlag_getV, if_neg hr, State.setFb_getV]
  rw [coordinate hx, coordinate hy]
  rfl

/-- A second draw flips back what the first one flipped. -/
theorem State.get_draw_draw_fb (hx : x ≠ VF) (hy : y ≠ VF) (px : Fin 64) (py : Fin 32) :
    Framebuffer.get ((s.draw x y n).draw x y n).fb px py = Framebuffer.get s.fb px py := by
  have same := State.draw_spriteCovers (s := s) (n := n) hx hy px py
  by_cases covered : s.spriteCovers (s.getV x).toNat (s.getV y).toNat n px py
  · rw [State.get_draw_fb_of_covers _ (same.2 covered), State.get_draw_fb_of_covers _ covered, Bool.not_not]
  · rw [State.get_draw_fb_of_not_covers _ (mt same.1 covered), State.get_draw_fb_of_not_covers _ covered]

/-- The second draw collides exactly when the first one lit a cell. -/
theorem State.draw_collides_iff (hx : x ≠ VF) (hy : y ≠ VF) :
    (s.draw x y n).collides x y n = true ↔ ∃ px py,
      s.spriteCovers (s.getV x).toNat (s.getV y).toNat n px py ∧ Framebuffer.get s.fb px py = false := by
  rw [State.collides_iff]
  refine exists₂_congr fun px py => ?_
  rw [State.draw_spriteCovers hx hy]
  refine and_congr_right fun covered => ?_
  rw [State.get_draw_fb_of_covers _ covered, Bool.not_eq_true']

theorem flagByte_eq_one_iff (b : Bool) : flagByte b = 1 ↔ b = true := by
  cases b with
  | false => decide
  | true => decide

end

/-- Settles O21: both draws see the same registers, memory and framebuffer as without the fetch's advance. -/
theorem drawingTwiceErases : Obligations.DrawingTwiceErases := by
  intro x y n s hx hy inBounds
  refine ⟨_, _, exec_drw_of_inBounds x y inBounds, exec_drw_of_inBounds x y inBounds, ?_, ?_⟩
  · exact State.get_draw_draw_fb (s := s.advance) hx hy
  · rw [State.draw_getV_VF, flagByte_eq_one_iff]
    exact State.draw_collides_iff (s := s.advance) hx hy

/-! ### Placing a word -/

section
variable {s : State}

/-- Where the machine fetches after `fetchable`: where it did if two bytes lie there, and with no fault latched. -/
theorem State.fetchable_eq (s : State) : ∃ w : Word, s.fetchable = { s with fault := none, pc := w } ∧
    w.toNat + 1 < 4096 ∧ (s.pc.toNat + 1 < 4096 → w = s.pc) := by
  obtain inMemory | pastMemory := Nat.lt_or_ge (s.pc.toNat + 1) 4096
  · exact ⟨s.pc, if_pos (lowestBad_of_inBounds inMemory), inMemory, fun _ => rfl⟩
  · have bad : lowestBad s.pc.toNat 2 ≠ none := lowestBad_of_outOfBounds pastMemory ▸ Option.some_ne_none _
    exact ⟨BitVec.ofNat 16 Config.entry, if_neg bad, by decide,
      fun inMemory => absurd inMemory (Nat.not_lt.2 pastMemory)⟩

/-- The invariant is kept wherever `pc` goes, when the latch is cleared. -/
theorem State.Inv.cleared (h : s.Inv) (w : Word) : State.Inv { s with fault := none, pc := w } :=
  { h with record := fun _ latched => nomatch latched }

/-- The two bytes of a word, put together as a fetch does (20_memory.md R53). -/
theorem highByte_append_lowByte (w : Word) : highByte w ++ lowByte w = w := by
  apply BitVec.eq_of_toNat_eq
  have := w.isLt
  rw [toNat_append_eq, highByte, lowByte, BitVec.extractLsb'_toNat, BitVec.extractLsb'_toNat,
    Nat.shiftRight_eq_div_pow, Nat.shiftRight_zero]
  omega

/-- A word stored at `pc` is the word fetched there. -/
theorem State.storeWordAtPc_fetchWord (wf : Memory.wf s.params.font s.mem = true) (w : Word) :
    (s.storeWordAtPc w).fetchWord = w := by
  have byte {k : Nat} (hk : k < [highByte w, lowByte w].length) :
      (s.storeWordAtPc w).readByte (s.pc.toNat + k) = [highByte w, lowByte w][k] := by
    rw [State.storeWordAtPc, State.writeBytes_readByte_eq_byteUnder wf, State.byteUnder_of_written hk]
  have high := byte (show 0 < 2 by decide)
  have low := byte (show 1 < 2 by decide)
  calc (s.storeWordAtPc w).fetchWord
      = (s.storeWordAtPc w).readByte s.pc.toNat ++ (s.storeWordAtPc w).readByte (s.pc.toNat + 1) := rfl
    _ = highByte w ++ lowByte w := by rw [low]; exact congrArg (· ++ lowByte w) high
    _ = w := highByte_append_lowByte w

/-- The bytes elsewhere are as before. -/
theorem State.storeWordAtPc_readByte_of_ne (wf : Memory.wf s.params.font s.mem = true) (w : Word) {a : Nat}
    (notHigh : a ≠ s.pc.toNat) (notLow : a ≠ s.pc.toNat + 1) : (s.storeWordAtPc w).readByte a = s.readByte a := by
  rw [State.storeWordAtPc, State.writeBytes_readByte_eq_byteUnder wf, State.byteUnder_of_unwritten]
  simp only [List.length_cons, List.length_nil]
  omega

/-- The word stored at `pc` is the next instruction. -/
theorem step_storeWordAtPc {i : Instr} (wf : Memory.wf s.params.font s.mem = true) (noFault : s.fault = none)
    (inMemory : s.pc.toNat + 1 < 4096) (inSet : i.wellFormed s.params.opset = true) :
    step (s.storeWordAtPc (encode i)) = exec i (s.storeWordAtPc (encode i)) := by
  have decoded : decode s.params.opset (s.storeWordAtPc (encode i)).fetchWord = some i := by
    rw [State.storeWordAtPc_fetchWord wf, decode_encode inSet]
  exact step_eq_exec noFault inMemory decoded

theorem tableWord_toNat (w : Word) : tableWord 16 w.toNat = w := by
  rw [tableWord, Nat.mod_eq_of_lt w.isLt, BitVec.ofNat_toNat, BitVec.setWidth_eq]

/-- Settles O18: the placement moves `pc` into memory if need be, clears the latch and stores the word there. -/
theorem placedWordIsTheNextInstruction : Obligations.PlacedWordIsTheNextInstruction := by
  intro s i h inSet
  obtain ⟨w, fetchable, inMemory, samePc⟩ := s.fetchable_eq
  have placed : s.withFetchWord 16 (encode i).toNat
      = State.storeWordAtPc { s with fault := none, pc := w } (encode i) := by
    rw [State.withFetchWord, tableWord_toNat, fetchable]
  have cleared := h.cleared w
  rw [placed]
  exact ⟨step_storeWordAtPc cleared.memory rfl inMemory inSet, State.writeBytes_keeps_inv cleared inMemory, inMemory,
    rfl, rfl, rfl, fun _ => State.storeWordAtPc_readByte_of_ne cleared.memory _, fun _ => samePc⟩

end

end Sys2Proof.Machine
end

section
/-! PROOFS. Which instruction writes which piece of state (10_state.md R39). The table is one `Writes` for each instruction;
that an instruction which does not fault keeps within it is read off the frames proved above. -/

namespace Sys2Proof.Machine

/-! ### Frames and wider ones -/

/-- What `w` lets an instruction change, `w'` does too. A field that `w` leaves out needs no proof. -/
structure Writes.Within (w w' : Writes) : Prop where
  v : ∀ r, w.v r → w'.v r := by exact fun _ => False.elim
  i : w.i → w'.i := by exact False.elim
  sp : w.sp → w'.sp := by exact False.elim
  stack : ∀ k, w.stack k → w'.stack k := by exact fun _ => False.elim
  mem : ∀ a, w.mem a → w'.mem a := by exact fun _ => False.elim
  fb : w.fb → w'.fb := by exact False.elim
  dt : w.dt → w'.dt := by exact False.elim
  st : w.st → w'.st := by exact False.elim
  kwait : w.kwait → w'.kwait := by exact False.elim
  random : w.random → w'.random := by exact False.elim

theorem Frame.mono {w w' : Writes} {s t : State} (frame : Frame w s t) (within : w.Within w') : Frame w' s t where
  v r h := frame.v r (mt (within.v r) h)
  i h := frame.i (mt within.i h)
  sp h := frame.sp (mt within.sp h)
  stack k hk h := frame.stack k hk (mt (within.stack k) h)
  mem a h := frame.mem a (mt (within.mem a) h)
  fb h := frame.fb (mt within.fb h)
  dt h := frame.dt (mt within.dt h)
  st h := frame.st (mt within.st h)
  kwait h := frame.kwait (mt within.kwait h)
  random h := frame.random (mt within.random h)
  key := frame.key
  fault := frame.fault
  params := frame.params

/-! ### The table -/

/-- What the writer table lets `i` change at `s`: the rows of 10_state.md R39, and CALL alone for the stack, FX0A for the key
wait, CXNN for the random source. -/
def listedWrites (i : Instr) (s : State) : Writes where
  v r := i.writesV r = true
  i := (∃ nnn, i = .ldI nnn) ∨ (∃ x, i = .addIVx x) ∨ (∃ x, i = .ldFVx x) ∨
    s.params.ldstIncrementsI = true ∧ ((∃ x, i = .ldMemVx x) ∨ ∃ x, i = .ldVxMem x)
  sp := i = .ret ∨ ∃ nnn, i = .call nnn
  stack _ := ∃ nnn, i = .call nnn
  mem a := a < 4096 ∧ ((∃ x, i = .ldBVx x) ∨ ∃ x, i = .ldMemVx x)
  fb := i = .cls ∨ ∃ x y n, i = .drw x y n
  dt := ∃ x, i = .ldDtVx x
  st := ∃ x, i = .ldStVx x
  kwait := s.params.keywait = .pressRelease ∧ ∃ x, i = .ldVxK x
  random := ∃ x nn, i = .rnd x nn

/-- An instruction's whole effect as the table tells it: a fault latched and nothing else, or a change within its writes that
leaves `pc` at the next word unless it sets it. -/
def KeepsToTable (i : Instr) (s t : State) : Prop :=
  (∃ f, t = { s with fault := some f }) ∨
    Frame (listedWrites i s) s t ∧ (i.setsPc = false → t.pc = s.pc + 2)

section
variable {i : Instr} {s t u : State} {x : Reg}

theorem KeepsToTable.of_frame {w : Writes} (runs : exec i s = .next t) (answers : exec i s = .next u)
    (frame : Frame w s u) (within : w.Within (listedWrites i s)) (pc : i.setsPc = false → u.pc = s.pc + 2) :
    KeepsToTable i s t := by
  obtain rfl := next_inj (answers.symm.trans runs)
  exact .inr ⟨frame.mono within, pc⟩

theorem KeepsToTable.of_faulted {kind : FaultKind} {detail : Option Nat} (runs : exec i s = .next t)
    (faults : exec i s = .next (s.faulted i kind detail)) : KeepsToTable i s t := by
  obtain rfl := next_inj (faults.symm.trans runs)
  exact .inl ⟨_, rfl⟩

/-! ### Every instruction keeps to it -/

/-- An instruction that writes `V[X]` alone. -/
theorem KeepsToTable.of_setV {b : Byte} (runs : exec i s = .next t) (answers : exec i s = .next (s.advance.setV x b))
    (writes : i.writesV x = true) : KeepsToTable i s t :=
  .of_frame runs answers (s.advance_setV_frame x b) { v := fun _ isX => isX ▸ writes } fun _ => rfl

/-- An instruction that writes `V[X]` and the flag. -/
theorem KeepsToTable.of_setResultAndFlag {b : Byte} {f : Bool} (runs : exec i s = .next t)
    (answers : exec i s = .next (s.advance.setResultAndFlag x b f))
    (writes : ∀ r, i.writesV r = (decide (r = x) || decide (r = VF))) :
    KeepsToTable i s t := by
  refine .of_frame runs answers (s.advance_setResultAndFlag_frame x b f) { v := fun r written => ?_ } fun _ => rfl
  show i.writesV r = true
  rw [writes, Bool.or_eq_true, decide_eq_true_iff, decide_eq_true_iff]
  exact written

/-- An instruction that moves `pc` and does nothing else. -/
theorem KeepsToTable.of_jump (runs : exec i s = .next t) (answers : exec i s = .next u) (frame : Frame {} s u)
    (jumps : i.setsPc = true) : KeepsToTable i s t :=
  .of_frame runs answers frame {} fun stays => nomatch jumps.symm.trans stays

theorem exec_call_keepsToTable (nnn : Addr12) (runs : exec (.call nnn) s = .next t) : KeepsToTable (.call nnn) s t := by
  obtain free | full | past := Nat.lt_trichotomy s.sp.toNat 16
  · exact .of_frame runs (exec_call_of_lt nnn free) (State.called_frame nnn free)
      { sp := fun _ => .inr ⟨nnn, rfl⟩, stack := fun _ _ => ⟨nnn, rfl⟩ } nofun
  · exact .of_faulted runs (exec_call_of_eq nnn full)
  · rw [exec_call_of_gt nnn past] at runs
    cases runs

theorem exec_ret_keepsToTable (runs : exec .ret s = .next t) : KeepsToTable .ret s t := by
  obtain empty | pushed := Nat.eq_zero_or_pos s.sp.toNat
  · exact .of_faulted runs (exec_ret_of_empty empty)
  · obtain past | inRange := Nat.lt_or_ge 16 s.sp.toNat
    · rw [exec_ret_of_gt past] at runs
      cases runs
    · obtain ⟨slot, pops⟩ := exec_ret_of_pushed pushed inRange
      exact .of_frame runs pops (State.advance_popPc_frame slot) { sp := fun _ => .inl rfl } nofun

theorem exec_drw_keepsToTable (y : Reg) (n : Nibble) (runs : exec (.drw x y n) s = .next t) :
    KeepsToTable (.drw x y n) s t := by
  by_cases inBounds : n.toNat = 0 ∨ s.i.toNat + n.toNat ≤ 4096
  · exact .of_frame runs (exec_drw_of_inBounds x y inBounds) (s.advance_draw_frame x y n)
      { v := fun _ isVF => decide_eq_true isVF, fb := fun _ => .inr ⟨x, y, n, rfl⟩ } fun _ => rfl
  · obtain ⟨rows, outOfBounds⟩ := not_or.1 inBounds
    exact .of_faulted runs (exec_drw_of_outOfBounds x y rows (Nat.lt_of_not_le outOfBounds))

theorem exec_ldFVx_keepsToTable (runs : exec (.ldFVx x) s = .next t) : KeepsToTable (.ldFVx x) s t := by
  obtain noDigit | isDigit := Nat.lt_or_ge 15 (s.getV x).toNat
  · exact .of_faulted runs (exec_ldFVx_of_gt noDigit)
  · exact .of_frame runs (exec_ldFVx_of_le isDigit) (s.advance_setI_frame _)
      { i := fun _ => .inr (.inr (.inl ⟨x, rfl⟩)) } fun _ => rfl

theorem exec_ldBVx_keepsToTable (wf : Memory.wf s.params.font s.mem = true) (runs : exec (.ldBVx x) s = .next t) :
    KeepsToTable (.ldBVx x) s t := by
  obtain inBounds | outOfBounds := Nat.lt_or_ge (s.dataAddr + 2) 4096
  · refine .of_frame runs (exec_ldBVx_of_inBounds x inBounds) (State.advance_writeBytes_frame wf fun _ h => h)
      { mem := fun a written => ⟨?_, .inl ⟨x, rfl⟩⟩ } fun _ => rfl
    rw [bcdDigits_length] at written
    omega
  · exact .of_faulted runs (exec_ldBVx_of_outOfBounds x outOfBounds)

theorem exec_ldMemVx_keepsToTable (wf : Memory.wf s.params.font s.mem = true) (runs : exec (.ldMemVx x) s = .next t) :
    KeepsToTable (.ldMemVx x) s t := by
  obtain inBounds | outOfBounds := Nat.lt_or_ge (s.dataAddr + x.val) 4096
  · exact .of_frame runs (exec_ldMemVx_of_inBounds x inBounds) (State.store_frame wf)
      { mem := fun a written => ⟨Nat.lt_of_le_of_lt written.2 inBounds, .inr ⟨x, rfl⟩⟩
        i := fun increments => .inr (.inr (.inr ⟨increments, .inl ⟨x, rfl⟩⟩)) } fun _ => State.ldstIncrement_pc _ x
  · exact .of_faulted runs (exec_ldMemVx_of_outOfBounds x outOfBounds)

theorem exec_ldVxMem_keepsToTable (runs : exec (.ldVxMem x) s = .next t) : KeepsToTable (.ldVxMem x) s t := by
  obtain inBounds | outOfBounds := Nat.lt_or_ge (s.dataAddr + x.val) 4096
  · exact .of_frame runs (exec_ldVxMem_of_inBounds x inBounds) State.load_frame
      { v := fun _ loaded => decide_eq_true loaded
        i := fun increments => .inr (.inr (.inr ⟨increments, .inr ⟨x, rfl⟩⟩)) } fun _ => State.ldstIncrement_pc _ x
  · exact .of_faulted runs (exec_ldVxMem_of_outOfBounds x outOfBounds)

theorem exec_skp_keepsToTable (runs : exec (.skp x) s = .next t) : KeepsToTable (.skp x) s t := by
  obtain isKey | noKey := Nat.lt_or_ge (s.getV x).toNat 16
  · exact .of_jump runs (exec_skp_of_lt isKey) (s.advance_skipIf_frame _) rfl
  · exact .of_faulted runs (exec_skp_of_ge noKey)

theorem exec_sknp_keepsToTable (runs : exec (.sknp x) s = .next t) : KeepsToTable (.sknp x) s t := by
  obtain isKey | noKey := Nat.lt_or_ge (s.getV x).toNat 16
  · exact .of_jump runs (exec_sknp_of_lt isKey) (s.advance_skipIf_frame _) rfl
  · exact .of_faulted runs (exec_sknp_of_ge noKey)

/-- A wait under Press writes `V[X]` at most. -/
theorem State.keyWaitPress_frame : Frame { v := fun r => r = x } s (s.keyWaitPress x) := by
  cases down : s.leastKeyDown with
  | some k =>
    rw [State.keyWaitPress_of_some x down]
    exact s.advance_setV_frame x _
  | none =>
    rw [State.keyWaitPress_of_none x down]
    exact (s.advance_setPc_frame s.pc).mono {}

/-- A wait under PressRelease writes `V[X]` and the latch at most. -/
theorem State.keyWaitPressRelease_frame :
    Frame { v := fun r => r = x, kwait := True } s (s.keyWaitPressRelease x) := by
  cases latch : s.kwait with
  | none =>
    cases down : s.leastKeyDown with
    | some k =>
      rw [State.keyWaitPressRelease_of_pressed x latch down]
      exact (s.advance_setKwait_setPc_frame _ _).mono { kwait := id }
    | none =>
      rw [State.keyWaitPressRelease_of_no_key x latch down]
      exact (s.advance_setPc_frame s.pc).mono {}
  | some k =>
    cases held : s.key[k] with
    | true =>
      rw [State.keyWaitPressRelease_of_held x latch held]
      exact (s.advance_setPc_frame s.pc).mono {}
    | false =>
      rw [State.keyWaitPressRelease_of_released x latch held]
      exact s.advance_setV_setKwait_frame x _ _

theorem exec_ldVxK_keepsToTable (runs : exec (.ldVxK x) s = .next t) : KeepsToTable (.ldVxK x) s t := by
  cases waits : s.params.keywait with
  | press =>
    exact .of_frame runs (exec_ldVxK_of_press x waits) State.keyWaitPress_frame
      { v := fun _ isX => decide_eq_true isX } nofun
  | pressRelease =>
    exact .of_frame runs (exec_ldVxK_of_pressRelease x waits) State.keyWaitPressRelease_frame
      { v := fun _ isX => decide_eq_true isX, kwait := fun _ => ⟨waits, x, rfl⟩ } nofun

theorem exec_keepsToTable (wf : Memory.wf s.params.font s.mem = true) (runs : exec i s = .next t) :
    KeepsToTable i s t := by
  cases i with
  | cls => exact .of_frame runs (exec_cls s) (s.advance_setFb_frame _) { fb := fun _ => .inl rfl } fun _ => rfl
  | ret => exact exec_ret_keepsToTable runs
  | nop => exact .of_frame runs (exec_nop s) (s.advance_setPc_frame _) {} fun _ => rfl
  | jp nnn => exact .of_jump runs (exec_jp nnn s) (s.advance_setPc_frame _) rfl
  | call nnn => exact exec_call_keepsToTable nnn runs
  | seImm x nn => exact .of_jump runs (exec_seImm s x nn) (s.advance_skipIf_frame _) rfl
  | sneImm x nn => exact .of_jump runs (exec_sneImm s x nn) (s.advance_skipIf_frame _) rfl
  | seReg x y => exact .of_jump runs (exec_seReg s x y) (s.advance_skipIf_frame _) rfl
  | sneReg x y => exact .of_jump runs (exec_sneReg s x y) (s.advance_skipIf_frame _) rfl
  | ldImm x nn => exact .of_setV runs (exec_ldImm s x nn) (decide_eq_true rfl)
  | addImm x nn => exact .of_setV runs (exec_addImm s x nn) (decide_eq_true rfl)
  | ldReg x y => exact .of_setV runs (exec_ldReg s x y) (decide_eq_true rfl)
  | or x y => exact .of_setV runs (exec_or s x y) (decide_eq_true rfl)
  | and x y => exact .of_setV runs (exec_and s x y) (decide_eq_true rfl)
  | xor x y => exact .of_setV runs (exec_xor s x y) (decide_eq_true rfl)
  | ldVxDt x => exact .of_setV runs (exec_ldVxDt s x) (decide_eq_true rfl)
  | addReg x y => exact .of_setResultAndFlag runs (exec_addReg s x y) fun _ => rfl
  | sub x y => exact .of_setResultAndFlag runs (exec_sub s x y) fun _ => rfl
  | subn x y => exact .of_setResultAndFlag runs (exec_subn s x y) fun _ => rfl
  | shr x y => exact .of_setResultAndFlag runs (exec_shr s x y) fun _ => rfl
  | shl x y => exact .of_setResultAndFlag runs (exec_shl s x y) fun _ => rfl
  | ldI nnn =>
    exact .of_frame runs (exec_ldI nnn s) (s.advance_setI_frame _) { i := fun _ => .inl ⟨nnn, rfl⟩ } fun _ => rfl
  | addIVx x =>
    exact .of_frame runs (exec_addIVx s x) (s.advance_setI_frame _) { i := fun _ => .inr (.inl ⟨x, rfl⟩) } fun _ => rfl
  | jpV0 nnn => exact .of_jump runs (exec_jpV0 s nnn) (s.advance_setPc_frame _) rfl
  | rnd x nn =>
    exact .of_frame runs (exec_rnd s x nn) (s.advance_dropRandom_setV_frame x _)
      { v := fun _ isX => decide_eq_true isX, random := fun _ => ⟨x, nn, rfl⟩ } fun _ => rfl
  | drw x y n => exact exec_drw_keepsToTable y n runs
  | skp x => exact exec_skp_keepsToTable runs
  | sknp x => exact exec_sknp_keepsToTable runs
  | ldVxK x => exact exec_ldVxK_keepsToTable runs
  | ldDtVx x => exact .of_frame runs (exec_ldDtVx s x) (s.advance_setDt_frame _) { dt := fun _ => ⟨x, rfl⟩ } fun _ => rfl
  | ldStVx x => exact .of_frame runs (exec_ldStVx s x) (s.advance_setSt_frame _) { st := fun _ => ⟨x, rfl⟩ } fun _ => rfl
  | ldFVx x => exact exec_ldFVx_keepsToTable runs
  | ldBVx x => exact exec_ldBVx_keepsToTable wf runs
  | ldMemVx x => exact exec_ldMemVx_keepsToTable wf runs
  | ldVxMem x => exact exec_ldVxMem_keepsToTable runs

end

/-- Settles O13: a faulted state differs in the latch alone; in the frame of the table, what changed is not outside it. -/
theorem eachStateElementHasOnlyItsWriters : Obligations.EachStateElementHasOnlyItsWriters := by
  intro i s t h runs
  obtain ⟨f, rfl⟩ | ⟨frame, pc⟩ := exec_keepsToTable h.memory runs
  · exact ⟨fun _ => absurd rfl, fun _ => .inr ⟨f, rfl⟩, absurd rfl, absurd rfl, absurd rfl, fun _ => absurd rfl,
      absurd rfl, absurd rfl, absurd rfl, absurd rfl, fun changed => changed.elim (absurd rfl) (absurd rfl), fun _ => rfl,
      rfl, rfl⟩
  · have jumps (moved : t.pc ≠ s.pc + 2) : i.setsPc = true := by
      by_contra stays
      exact moved (pc (Bool.eq_false_iff.2 stays))
    have draws (changed : t.randomIn ≠ s.randomIn ∨ t.draws ≠ s.draws) : ∃ x nn, i = .rnd x nn := by
      by_contra other
      obtain ⟨sameBytes, sameCount⟩ := frame.random other
      exact changed.elim (absurd sameBytes) (absurd sameCount)
    have sameStack (other : ¬ ∃ nnn, i = .call nnn) : t.stack = s.stack :=
      Vector.ext fun k hk => frame.stack k hk other
    exact ⟨fun r => not_imp_comm.1 (frame.v r), fun moved => .inl (jumps moved), not_imp_comm.1 frame.i,
      not_imp_comm.1 frame.sp, not_imp_comm.1 sameStack, fun a => not_imp_comm.1 (frame.mem a),
      not_imp_comm.1 fun other => Framebuffer.ext (frame.fb other), not_imp_comm.1 frame.dt, not_imp_comm.1 frame.st,
      not_imp_comm.1 frame.kwait, draws, absurd frame.fault, frame.key, frame.params⟩

end Sys2Proof.Machine
end
